-- ==== Sys2Proof/Word.lean ====
section
/-! DEFINITION. The number types of the core (spec/00_scope.md R9, spec/10_state.md R12, spec/20_memory.md R31, R35).

Every value of the core is a natural number (R9) and nothing wraps or is truncated (R15, R18), so register values,
cell values and cell indices (the instruction pointer counts cells, R16) are plain `Nat`. The widths REG_W, CELL_W
and IP_W are bounds on them (Config.lean, Safety.lean). The one thing the spec gives a fixed number of wires is
the port to the Output Sink: 3 bits (R35). -/
namespace Sys2Proof

/-- A value on the 3-bit port to the Output Sink (R35). -/
abbrev OutVal := BitVec 3

end Sys2Proof
end

