-- ==== Sys2Proof/Config.lean ====
section
/-! DEFINITION. The implementation parameters (spec/00_scope.md R5 to R8, decisions D1, D3, D18).

The spec leaves REG_W, CELL_W and LEN_MAX open and says a model takes them as arguments of its configuration.
They are the fields of `Params`, which an instance carries from its construction on (State.params); no
operation on a live instance changes them. LEN is the length of the instance's Program, IP_W is derived
(Machine/Ops.lean). The core is deterministic and no behaviour is a free draw (spec/93 header, R80), so
there is no free value here. -/
namespace Sys2Proof

/-- A bound that may be the symbol INF. What is counted (bits, cells) is said where it is used. -/
inductive Bound where
  | finite (n : Nat)
  | inf
  deriving DecidableEq, Repr

/-- The parameters of one core: REG_W in bits (R5), CELL_W in bits (R6), LEN_MAX in cells (R7). -/
structure Params where
  regW   : Bound
  cellW  : Nat
  lenMax : Bound
  deriving DecidableEq, Repr

/-- The reference values of R5, R6 and R7: REG_W = INF, CELL_W = 3, LEN_MAX = INF. -/
def Params.reference : Params where
  regW   := .inf
  cellW  := 3
  lenMax := .inf

end Sys2Proof
end

