-- ==== Sys2Proof/Syntax.lean ====
section
/-! DEFINITION. The instructions as data: one constructor of `Instr` per row of spec/opcode_table.json
(spec/30_encoding.md R52 to R60).

An instruction is selected by its opcode cell alone (R57); the operand cell is always an operand. An operand
cell that has no value (7 in a combo operand, R55; above 7 in a combo or literal operand, R59) still belongs to
its row: the instruction exists and raises InvalidOperand when it is executed. The operand types therefore
have a constructor for it, which keeps the cell. -/
namespace Sys2Proof

/-- The three general registers (R11), numbered 0, 1, 2 in this order. -/
inductive Reg where
  | A
  | B
  | C
  deriving DecidableEq, Repr

/-- The operand kinds of R52. -/
inductive OperandKind where
  | literal
  | combo
  | ignored
  deriving DecidableEq, Repr

/-- A combo operand (R54): a number 0 to 3, a register, or a cell with no value (7 by R55, above 7 by R59). -/
inductive Combo where
  | num (n : Fin 4)
  | reg (r : Reg)
  | reserved (cell : Nat)
  deriving DecidableEq, Repr

/-- A literal operand (R53): a number 0 to 7, or a cell above 7 (R59), which exists only when CELL_W > 3. -/
inductive Literal where
  | num (n : Fin 8)
  | outOfRange (cell : Nat)
  deriving DecidableEq, Repr

/-- The closed instruction set (R57), in opcode order. BXC keeps its operand cell, which nothing examines (R56). -/
inductive Instr where
  | adv (op : Combo)
  | bxl (op : Literal)
  | bst (op : Combo)
  | jnz (op : Literal)
  | bxc (cell : Nat)
  | out (op : Combo)
  | bdv (op : Combo)
  | cdv (op : Combo)
  deriving DecidableEq, Repr

end Sys2Proof
end

