-- ==== Sys2Proof/WellFormed.lean ====
section
/-! DEFINITION. Which terms of `Instr` are instructions of a core with cells of CELL_W bits
(spec/30_encoding.md R51, R53 to R60; spec/00_scope.md R6).

Well-formed means: the term stands for exactly one pair of cells of that width. A form that raises (R55, R59)
is well-formed, since it can be fetched; `reserved 3` is not, since the cell 3 is the number three. -/
namespace Sys2Proof

/-- A cell value of CELL_W bits (R6). -/
def cellFits (cellW : Nat) (cell : Nat) : Bool := decide (cell < 2 ^ cellW)

/-- A combo operand's term stands for one cell: `reserved` only for the cells R54 gives no value, 7 and above. -/
def Combo.wellFormed (cellW : Nat) : Combo → Bool
  | .num _ => true
  | .reg _ => true
  | .reserved cell => decide (7 ≤ cell) && cellFits cellW cell

/-- A literal operand's term stands for one cell: `outOfRange` only for the cells above 7 (R53, R59). -/
def Literal.wellFormed (cellW : Nat) : Literal → Bool
  | .num _ => true
  | .outOfRange cell => decide (8 ≤ cell) && cellFits cellW cell

/-- The term is an instruction of a core whose cells have `cellW` bits. -/
def Instr.wellFormed (cellW : Nat) : Instr → Bool
  | .adv op => op.wellFormed cellW
  | .bxl op => op.wellFormed cellW
  | .bst op => op.wellFormed cellW
  | .jnz op => op.wellFormed cellW
  | .bxc cell => cellFits cellW cell
  | .out op => op.wellFormed cellW
  | .bdv op => op.wellFormed cellW
  | .cdv op => op.wellFormed cellW

end Sys2Proof
end

