-- ==== Sys2Proof/Decode.lean ====
section
/-! DEFINITION. The decoder, total on every pair of cells, and the encoder
(spec/30_encoding.md R50 to R62; spec/opcode_table.json). -/
namespace Sys2Proof

/-- Why a pair is no instruction: only its opcode can be wrong (R58). The operand's legality is a matter of
operand resolution (R55, R59), after the instruction is selected (R62). -/
inductive DecodeError where
  | invalidOpcode (opc : Nat)
  deriving DecidableEq, Repr

/-- What the decoder answers. -/
inductive Decoded where
  | instr (i : Instr)
  | rejected (e : DecodeError)
  deriving DecidableEq, Repr

/-- The combo operand of a cell: the rows of R54; 7 (R55) and every larger cell (R59) have no value. -/
def decodeCombo : Nat → Combo
  | 0 => .num 0
  | 1 => .num 1
  | 2 => .num 2
  | 3 => .num 3
  | 4 => .reg .A
  | 5 => .reg .B
  | 6 => .reg .C
  | cell => .reserved cell

/-- The literal operand of a cell: "the raw value 0-7, used as-is" (R53); a larger cell has no value (R59). -/
def decodeLiteral : Nat → Literal
  | 0 => .num 0
  | 1 => .num 1
  | 2 => .num 2
  | 3 => .num 3
  | 4 => .num 4
  | 5 => .num 5
  | 6 => .num 6
  | 7 => .num 7
  | cell => .outOfRange cell

/-- The opcode map of R57; an opcode above 7 is rejected by name (R58). -/
def decode (opc opd : Nat) : Decoded :=
  match opc with
  | 0 => .instr (.adv (decodeCombo opd))
  | 1 => .instr (.bxl (decodeLiteral opd))
  | 2 => .instr (.bst (decodeCombo opd))
  | 3 => .instr (.jnz (decodeLiteral opd))
  | 4 => .instr (.bxc opd)
  | 5 => .instr (.out (decodeCombo opd))
  | 6 => .instr (.bdv (decodeCombo opd))
  | 7 => .instr (.cdv (decodeCombo opd))
  | opc => .rejected (.invalidOpcode opc)

/-- The register named by the combo encodings 4, 5, 6 (R54), as its number plus 4 (R11). -/
def Reg.comboCell : Reg → Nat
  | .A => 4
  | .B => 5
  | .C => 6

/-- The cell of a combo operand (R54, R55, R59). -/
def encodeCombo : Combo → Nat
  | .num n => n.val
  | .reg r => r.comboCell
  | .reserved cell => cell

/-- The cell of a literal operand (R53, R59). -/
def encodeLiteral : Literal → Nat
  | .num n => n.val
  | .outOfRange cell => cell

/-- The two cells of an instruction, opcode first (R39, R51, R57). -/
def encode : Instr → Nat × Nat
  | .adv op => (0, encodeCombo op)
  | .bxl op => (1, encodeLiteral op)
  | .bst op => (2, encodeCombo op)
  | .jnz op => (3, encodeLiteral op)
  | .bxc cell => (4, cell)
  | .out op => (5, encodeCombo op)
  | .bdv op => (6, encodeCombo op)
  | .cdv op => (7, encodeCombo op)

/-- The notation `iw = opc * 2^CELL_W + opd` of R51. -/
def instrWord (cellW : Nat) (opc opd : Nat) : Nat := opc * 2 ^ cellW + opd

/-- The two cells of a word of spec/opcode_table.json, whose rows are over `iw` with CELL_W = 3 (R51, R57):
`opc = iw[5:3]`, `opd = iw[2:0]`. A word of more than 6 bits gives an opcode above 7, which `decode` rejects. -/
def tableWordCells (nbits w : Nat) : Nat × Nat :=
  let iw := w % 2 ^ nbits
  (iw / 8, iw % 8)

/-- The instruction the decoder reads from a word of spec/opcode_table.json. -/
def decodeTableWord (nbits w : Nat) : Option Instr :=
  match decode (tableWordCells nbits w).1 (tableWordCells nbits w).2 with
  | .instr i => some i
  | .rejected _ => none

end Sys2Proof
end

