-- ==== Sys2Proof/Machine/State.lean ====
section
/-! DEFINITION. The state of one instance, and why an operation can stop
(spec/10_state.md R10 to R29; spec/20_memory.md R31, R34).

The architectural state is (x[A], x[B], x[C], pc, STATUS, CAUSE) and nothing else (R10). The Program and the
parameters are the instance's configuration, fixed at Construct (R7, R10, R32), and the sink history is the
model's record of what the core emitted (R34); both stand beside the architectural state, since a Step reads
the first and extends the second. -/
namespace Sys2Proof.Machine

/-- STATUS (R20). -/
inductive Status where
  | running
  | halted
  | faulted
  deriving DecidableEq, Repr

/-- CAUSE (R22). -/
inductive Cause where
  | none
  | invalidOperand
  | invalidOpcode
  deriving DecidableEq, Repr

/-- An error being raised, with its info value (R105), which no register stores (R109). -/
inductive Raised where
  | invalidOperand (opd : Nat)
  | invalidOpcode (opc : Nat)
  deriving DecidableEq, Repr

/-- The Program Store (R31): the cells P[0] to P[LEN-1]. A cell's address is its index and no cell exists at
an index >= LEN, so the sequence is its own canonical form: equal stores are equal lists. -/
abbrev Memory := List Nat

/-- One instance. -/
structure State where
  /-- REG_W, CELL_W, LEN_MAX (R5 to R7); configuration. -/
  params : Params
  /-- The Program P; LEN is its length (R7, R31); configuration. -/
  prog   : Memory
  /-- x[A] (R11, R12). -/
  regA   : Nat
  /-- x[B] (R11, R12). -/
  regB   : Nat
  /-- x[C] (R11, R12). -/
  regC   : Nat
  /-- The instruction pointer (R16): the index of the next opcode cell. -/
  pc     : Nat
  /-- STATUS (R20). -/
  status : Status
  /-- CAUSE (R22). -/
  cause  : Cause
  /-- What was written to the Output Sink so far, oldest first (R34); an event history no rule of the core reads. -/
  sink   : List OutVal
  deriving DecidableEq, Repr

/-- Why the machine can stop without a next state. The errors of R105 are NOT here: they are entered as a next
state with STATUS = Faulted (R109). -/
inductive Fault where
  /-- A read of the Program Store that reaches an index >= LEN, where no cell exists (R31; `MemRead` is defined
  only when addr + n <= LEN, R9). Raised by `memRead`; no Step reaches it, because the halt check comes first
  (R43, R72). Safe: the model stops where the spec gives no read. -/
  | cellAbsent (index : Nat)
  deriving DecidableEq, Repr

/-- Why an operation has no meaning. Every constructor is safe: the model stops where the spec refuses. -/
inductive Refusal where
  /-- Answered by `exec` for an instruction with no meaning; no arm answers it in this model. Safe. -/
  | notModelled (mnemonic : String)
  /-- Answered by `construct` for parameters outside their ranges (R5, R6). Safe. -/
  | paramsOutOfRange
  /-- Answered by `construct` and `setReg` for a negative register value (R12, R25, R126). Safe. -/
  | negativeRegister
  /-- Answered by `construct` and `setReg` for a register value >= 2^REG_W (R25, R126). Safe. -/
  | registerTooWide
  /-- Answered by `construct` for a negative cell (R126). Safe. -/
  | negativeCell
  /-- Answered by `construct` for a cell >= 2^CELL_W (R126). Safe. -/
  | cellTooWide
  /-- Answered by `construct` for LEN > LEN_MAX (R7, R126). Safe. -/
  | programTooLong
  /-- Answered by the composite of instances for an operation on an instance that does not exist (R121). Safe. -/
  | noSuchInstance
  deriving DecidableEq, Repr

/-- The instance right after power-on, as the reference core is before a loader has supplied anything:
pc = 0, Running, no cause (R29, R125). The spec fixes no power-on value of A, B, C, of the Program or of the
sink: they are always supplied (R29). The zeros, the empty Program and the empty history are the model's
DESIGN CHOICE, notes/assumptions/1.md; the reference parameters are R5 to R7's, notes/assumptions/2.md. -/
def State.reset : State where
  params := Params.reference
  prog   := []
  regA   := 0
  regB   := 0
  regC   := 0
  pc     := 0
  status := .running
  cause  := .none
  sink   := []

end Sys2Proof.Machine
end

