-- ==== Sys2Proof/Machine/Ops.lean ====
section
/-! DEFINITION. The named operations over registers, the instruction pointer, the Program Store and the
Output Sink; fault entry; Reset (spec/00_scope.md R9, spec/20_memory.md, spec/60_exceptions.md R109,
spec/70_reset_and_hazards.md R128). -/
namespace Sys2Proof.Machine

/-! ### Numbers -/

/-- Bit length: the least n with v < 2^n (R15). -/
def bitLength (v : Nat) : Nat := if v = 0 then 0 else v.log2 + 1

/-- `v >> k`, which is floor(v / 2^k) for every natural k (R9, R85). It is computed as R85 asks, without forming
2^k: a shift amount at or beyond the bit length gives 0, and no amount is masked. -/
def shiftDown (v k : Nat) : Nat := if bitLength v ≤ k then 0 else v >>> k

/-- `a xor b`, bit by bit over the full width (R9, R93). -/
def bitXor (a b : Nat) : Nat := a ^^^ b

/-- `v mod 8`, the low three bits (R9, R93). -/
def low3 (v : Nat) : Nat := v % 8

/-! ### Parameters -/

/-- A value of at most that many bits; every value when the width is INF (R12). -/
def fitsWidth : Bound → Nat → Bool
  | .finite n, v => decide (v < 2 ^ n)
  | .inf, _ => true

/-- A number of cells within LEN_MAX (R7). -/
def fitsLength : Bound → Nat → Bool
  | .finite n, len => decide (len ≤ n)
  | .inf, _ => true

/-- The ranges of REG_W and CELL_W: at least 3 (R5, R6). -/
def paramsInRange (p : Params) : Bool :=
  (match p.regW with
    | .finite n => decide (3 ≤ n)
    | .inf => true) && decide (3 ≤ p.cellW)

/-- IP_W (R8): the bits that hold max(LEN_MAX, 7), which are at least 3; INF with LEN_MAX. -/
def ipWidth (p : Params) : Bound :=
  match p.lenMax with
  | .finite n => .finite (bitLength (max n 7))
  | .inf => .inf

/-! ### Registers (R11 to R13) -/

/-- `x[r]`. -/
def readReg (r : Reg) (s : State) : Nat :=
  match r with
  | .A => s.regA
  | .B => s.regB
  | .C => s.regC

/-- `x[r] <- v`. No result is ever truncated (R15), so the value is stored as it is. -/
def writeReg (r : Reg) (v : Nat) (s : State) : State :=
  match r with
  | .A => { s with regA := v }
  | .B => { s with regB := v }
  | .C => { s with regC := v }

/-! ### The Program Store (R31 to R33, R39 to R43) -/

/-- The cell at an index, if it exists (R31). -/
def Memory.cell (m : Memory) (i : Nat) : Option Nat := m[i]?

/-- `MemRead(addr, n)` (R9): the n cells from addr on, lowest index first; defined only when addr + n <= LEN. -/
def memRead (m : Memory) (addr : Nat) (n : Nat) : Except Fault (List Nat) :=
  if addr + n ≤ m.length then .ok ((m.drop addr).take n) else .error (.cellAbsent (addr + n - 1))

/-- The store's form: every cell has CELL_W bits and LEN <= LEN_MAX (R6, R7, R31). -/
def Memory.wf (p : Params) (m : Memory) : Bool :=
  m.all (cellFits p.cellW) && fitsLength p.lenMax m.length

/-- The store with two cells placed at an index, lengthened with cells 0 where it is too short. This is a loader's
act (used by `State.withFetchWord` only); no operation of the core writes the Program (R32). -/
def Memory.placePair (m : Memory) (at_ : Nat) (opc opd : Nat) : Memory :=
  ((m ++ List.replicate (at_ + 2 - m.length) 0).set at_ opc).set (at_ + 1) opd

/-! ### The instruction pointer and the run (R16 to R21) -/

/-- AtEnd (R21, R72): not (pc + 1 < LEN), "IP and IP+1 do not both index into Program". -/
def atEnd (s : State) : Bool := !decide (s.pc + 1 < s.prog.length)

/-- `pc <- pc + 2`, the advance of every fetch (R17, R73). -/
def advancePc (s : State) : State := { s with pc := s.pc + 2 }

/-- `pc <- t` (R9, R95). -/
def setPc (t : Nat) (s : State) : State := { s with pc := t }

/-- `STATUS <- Halted` and nothing else (R72). -/
def halt (s : State) : State := { s with status := .halted }

/-! ### The Output Sink (R34 to R37) -/

/-- The value on the 3-bit port: `v[2:0]` (R35, R100). -/
def portValue (v : Nat) : OutVal := BitVec.ofNat 3 (low3 v)

/-- `Emit(v)`: append to what was emitted before (R34); it never fails and never blocks (R36). -/
def emit (v : OutVal) (s : State) : State := { s with sink := s.sink ++ [v] }

/-! ### Fault entry and the way out (R109, R114, R128) -/

/-- The value of CAUSE for an error (R22, R105). -/
def Raised.cause : Raised → Cause
  | .invalidOperand _ => .invalidOperand
  | .invalidOpcode _ => .invalidOpcode

/-- Fault entry, `raise E(info)` (R109): STATUS <- Faulted, CAUSE <- E, the Step ends. No vector, no saved
pointer, and the info value is not stored; the pointer keeps its advanced value (R110). -/
def raiseError (e : Raised) (s : State) : State :=
  { s with status := .faulted, cause := e.cause }

/-- `Reset()` (R128): pc <- 0, STATUS <- Running, CAUSE <- None, and nothing else. There is no return from an
error; this is the one way a live instance leaves Faulted (R114). -/
def resetInstance (s : State) : State :=
  { s with pc := 0, status := .running, cause := .none }

end Sys2Proof.Machine
end

