-- ==== Sys2Proof/Machine/Operands.lean ====
section
/-! DEFINITION. Operand resolution, step 4 of Step (spec/30_encoding.md R52 to R56, R59, R62;
spec/40_step_cycle.md R75; spec/10_state.md R13). -/
namespace Sys2Proof.Machine

/-- What resolving an operand gives: a value, or the error it raises. -/
inductive Resolved where
  | value (v : Nat)
  | error (e : Raised)
  deriving DecidableEq, Repr

/-- `Combo(opd)`, the operand multiplexer (R54): a number, or the whole current value of a register; a cell of 7
(R55) or above (R59) raises InvalidOperand. -/
def resolveCombo (op : Combo) (s : State) : Resolved :=
  match op with
  | .num n => .value n.val
  | .reg r => .value (readReg r s)
  | .reserved cell => .error (.invalidOperand cell)

/-- A literal operand (R53): the number itself; a cell above 7 raises InvalidOperand (R59). -/
def resolveLiteral (op : Literal) : Resolved :=
  match op with
  | .num n => .value n.val
  | .outOfRange cell => .error (.invalidOperand cell)

/-- An effect that takes an operand: with a value it is applied, and no effect can fail (R76); an operand that
raises ends the Step by fault entry, before any effect (R75, R106, R110). -/
def withOperand (r : Resolved) (effect : Nat → State → State) (s : State) :
    Host.Outcome State Fault Refusal :=
  match r with
  | .value v => .next (effect v s)
  | .error e => .next (raiseError e s)

/-- The operand kind of an opcode (R52, R77); none above 7. -/
def operandKind : Nat → Option OperandKind
  | 0 => some .combo
  | 1 => some .literal
  | 2 => some .combo
  | 3 => some .literal
  | 4 => some .ignored
  | 5 => some .combo
  | 6 => some .combo
  | 7 => some .combo
  | _ => none

/-- The error a fetched pair raises, in the order of R62 (`none`: the pair is legal, R60). It is read from R60 and
R62 and used by Safety.lean and the statements; the step reaches the same verdict by decoding and resolving. -/
def pairCause (opc opd : Nat) : Cause :=
  match operandKind opc with
  | none => .invalidOpcode
  | some .ignored => .none
  | some .literal => if 7 < opd then .invalidOperand else .none
  | some .combo => if 7 ≤ opd then .invalidOperand else .none

/-- The registers a combo operand reads (R13). -/
def comboReads : Combo → List Reg
  | .num _ => []
  | .reg r => [r]
  | .reserved _ => []

/-- The registers an instruction reads (R13). -/
def instrReads : Instr → List Reg
  | .adv op => .A :: comboReads op
  | .bxl _ => [.B]
  | .bst op => comboReads op
  | .jnz _ => [.A]
  | .bxc _ => [.B, .C]
  | .out op => comboReads op
  | .bdv op => .A :: comboReads op
  | .cdv op => .A :: comboReads op

/-- The register an instruction writes (R13). -/
def instrWrites : Instr → Option Reg
  | .adv _ => some .A
  | .bxl _ => some .B
  | .bst _ => some .B
  | .jnz _ => none
  | .bxc _ => some .B
  | .out _ => none
  | .bdv _ => some .B
  | .cdv _ => some .C

end Sys2Proof.Machine
end

