-- ==== Sys2Proof/Machine/Cycle.lean ====
section
/-! DEFINITION. What a Step does before its effect: the status check, the halt check, the fetch and advance, and
opcode validation (spec/40_step_cycle.md R71 to R74, in the order of R77 and R111). -/
namespace Sys2Proof.Machine

/-- How the part before the effect ends: the Step is over, or an instruction is to be executed on the state
after the advance, or the store was read where no cell is (no Step does; see `Fault.cellAbsent`). -/
inductive Phase where
  | done (s : State)
  | execute (i : Instr) (s : State)
  | stop (f : Fault)
  deriving DecidableEq, Repr

/-- Opcode validation (R74) of a fetched pair, on the state after the advance. -/
def dispatchPair (opc opd : Nat) (s : State) : Phase :=
  match decode opc opd with
  | .instr i => .execute i s
  | .rejected (.invalidOpcode opc) => .done (raiseError (.invalidOpcode opc) s)

/-- Fetch and advance (R73): `(opc, opd) <- MemRead(pc, 2)`, `pc <- pc + 2`, then opcode validation. -/
def fetchAndDecode (s : State) : Phase :=
  match memRead s.prog s.pc 2 with
  | .ok (opc :: opd :: _) => dispatchPair opc opd (advancePc s)
  | .ok _ => .stop (.cellAbsent s.pc)
  | .error f => .stop f

/-- The Step up to its effect: no-op unless Running (R71), halt at the end (R72), else fetch (R73). -/
def cycle (s : State) : Phase :=
  match s.status with
  | .halted => .done s
  | .faulted => .done s
  | .running => if atEnd s then .done (halt s) else fetchAndDecode s

end Sys2Proof.Machine
end

