-- ==== Sys2Proof/Machine/Bitwise.lean ====
section
/-! DEFINITION. BXL, BST, BXC: the instructions that write register B and nothing else
(spec/42_bitwise.md R90 to R93). -/
namespace Sys2Proof.Machine

/-- BXL, opcode 1 (R90): `x[B] <- x[B] xor val`, with a literal operand. -/
def execBxl (op : Literal) (s : State) : Host.Outcome State Fault Refusal :=
  withOperand (resolveLiteral op) (fun val s => writeReg .B (bitXor (readReg .B s) val) s) s

/-- BST, opcode 2 (R91): `x[B] <- val mod 8`. -/
def execBst (op : Combo) (s : State) : Host.Outcome State Fault Refusal :=
  withOperand (resolveCombo op s) (fun val s => writeReg .B (low3 val) s) s

/-- BXC, opcode 4 (R92): `x[B] <- x[B] xor x[C]`. The operand cell was fetched and is not examined (R56). -/
def execBxc (_cell : Nat) (s : State) : Host.Outcome State Fault Refusal :=
  .next (writeReg .B (bitXor (readReg .B s) (readReg .C s)) s)

end Sys2Proof.Machine
end

