-- ==== Sys2Proof/Machine/Branch.lean ====
section
/-! DEFINITION. JNZ, the only control transfer (spec/43_branch.md R95 to R97). -/
namespace Sys2Proof.Machine

/-- JNZ, opcode 3 (R95): `if x[A] != 0 then pc <- val`, overwriting the advanced pointer; else nothing. The target
is absolute and is not checked (R96). The operand is resolved, and may raise, whether or not A is zero. -/
def execJnz (op : Literal) (s : State) : Host.Outcome State Fault Refusal :=
  withOperand (resolveLiteral op) (fun val s => if readReg .A s ≠ 0 then setPc val s else s) s

end Sys2Proof.Machine
end

