-- ==== Sys2Proof/Machine/Divide.lean ====
section
/-! DEFINITION. ADV, BDV, CDV: register A divided by two to the power of the combo operand
(spec/41_divide.md R85 to R88). The dividend and the shift amount are both read before the write (R134). -/
namespace Sys2Proof.Machine

/-- `x[dst] <- x[A] >> val`, the effect the three instructions share (R86 to R88). -/
def divideInto (dst : Reg) (val : Nat) (s : State) : State :=
  writeReg dst (shiftDown (readReg .A s) val) s

/-- ADV, opcode 0 (R86): `x[A] <- x[A] >> val`. -/
def execAdv (op : Combo) (s : State) : Host.Outcome State Fault Refusal :=
  withOperand (resolveCombo op s) (divideInto .A) s

/-- BDV, opcode 6 (R87): `x[B] <- x[A] >> val`. -/
def execBdv (op : Combo) (s : State) : Host.Outcome State Fault Refusal :=
  withOperand (resolveCombo op s) (divideInto .B) s

/-- CDV, opcode 7 (R88): `x[C] <- x[A] >> val`. -/
def execCdv (op : Combo) (s : State) : Host.Outcome State Fault Refusal :=
  withOperand (resolveCombo op s) (divideInto .C) s

end Sys2Proof.Machine
end

