-- ==== Sys2Proof/Machine/Output.lean ====
section
/-! DEFINITION. OUT, the only instruction that writes to the Output Sink (spec/44_output.md R100, R101). -/
namespace Sys2Proof.Machine

/-- OUT, opcode 5 (R100): `Emit(val mod 8)`. -/
def execOut (op : Combo) (s : State) : Host.Outcome State Fault Refusal :=
  withOperand (resolveCombo op s) (fun val s => emit (portValue val) s) s

end Sys2Proof.Machine
end

