-- ==== Sys2Proof/Machine/Dispatch.lean ====
section
/-! DEFINITION. Step 5 of Step: the effect of the decoded instruction (spec/40_step_cycle.md R76), applied to the
state after the common advance of pc (R73). -/
namespace Sys2Proof.Machine

def exec (i : Instr) (s : State) : Host.Outcome State Fault Refusal :=
  match i with
  | .adv op => Sys2Proof.Machine.execAdv op s
  | .bxl op => Sys2Proof.Machine.execBxl op s
  | .bst op => Sys2Proof.Machine.execBst op s
  | .jnz op => Sys2Proof.Machine.execJnz op s
  | .bxc cell => Sys2Proof.Machine.execBxc cell s
  | .out op => Sys2Proof.Machine.execOut op s
  | .bdv op => Sys2Proof.Machine.execBdv op s
  | .cdv op => Sys2Proof.Machine.execCdv op s

end Sys2Proof.Machine
end

