-- ==== Sys2Proof/Machine/Step.lean ====
section
/-! DEFINITION. `Step`, the core's only action (spec/40_step_cycle.md R70, R77), and how a word is put where the next
Step fetches it. -/
namespace Sys2Proof.Machine

/-- One `Step()` (R77). -/
def step (s : State) : Host.Outcome State Fault Refusal :=
  match cycle s with
  | .done s' => .next s'
  | .execute i s' => exec i s'
  | .stop f => .fault f

/-- The state whose next Step fetches the pair of a word of spec/opcode_table.json: the two cells stand at pc and
pc + 1, and the instance is Running, without which no Step fetches (R71). It stands for a loader's act: the core
itself never writes the Program (R32). See notes/assumptions/4.md. -/
def State.withFetchWord (s : State) (nbits w : Nat) : State :=
  { s with
    prog := s.prog.placePair s.pc (tableWordCells nbits w).1 (tableWordCells nbits w).2
    status := .running
    cause := .none }

end Sys2Proof.Machine
end

