-- ==== Sys2Proof/Machine/Assembly.lean ====
section
/-! DEFINITION. The assembly syntax of spec/30_encoding.md R63 (decision D15), on lines already cut into words: the
spec's own spelling of cells, used by its listings; no Step reads it. There are no pseudo-instructions (R64). -/
namespace Sys2Proof.Machine

/-- The eight mnemonics (R57). -/
inductive Mnemonic where
  | ADV
  | BXL
  | BST
  | JNZ
  | BXC
  | OUT
  | BDV
  | CDV
  deriving DecidableEq, Repr

/-- The opcode of a mnemonic (R57). -/
def Mnemonic.opcode : Mnemonic → Nat
  | .ADV => 0
  | .BXL => 1
  | .BST => 2
  | .JNZ => 3
  | .BXC => 4
  | .OUT => 5
  | .BDV => 6
  | .CDV => 7

/-- The spelling of a mnemonic. -/
def Mnemonic.text : Mnemonic → String
  | .ADV => "ADV"
  | .BXL => "BXL"
  | .BST => "BST"
  | .JNZ => "JNZ"
  | .BXC => "BXC"
  | .OUT => "OUT"
  | .BDV => "BDV"
  | .CDV => "CDV"

/-- What may stand in the operand's place. -/
inductive AsmOperand where
  | digit (n : Nat)
  | letter (r : Reg)
  | omitted
  deriving DecidableEq, Repr

/-- One line: an instruction, or the directive `.cells v, v, ...`. -/
inductive AsmLine where
  | instr (m : Mnemonic) (operand : AsmOperand)
  | cells (vs : List Nat)
  deriving DecidableEq, Repr

/-- The cell of a written operand, by the operand kind (R63): a digit 0 to 7 for a literal; 0 to 3 or a letter for
a combo, so that `OUT 4` is not accepted; a digit 0 to 7 or nothing, which is 0, for an ignored one. -/
def assembleOperand : OperandKind → AsmOperand → Option Nat
  | .literal, .digit n => if n ≤ 7 then some n else none
  | .literal, _ => none
  | .combo, .digit n => if n ≤ 3 then some n else none
  | .combo, .letter r => some r.comboCell
  | .combo, .omitted => none
  | .ignored, .digit n => if n ≤ 7 then some n else none
  | .ignored, .omitted => some 0
  | .ignored, .letter _ => none

/-- The cells of a line; `.cells` places its values as they are. -/
def assembleLine : AsmLine → Option (List Nat)
  | .instr m operand =>
    match operandKind m.opcode with
    | some kind => (assembleOperand kind operand).map fun opd => [m.opcode, opd]
    | none => none
  | .cells vs => some vs

/-- The Program of a list of lines. -/
def assemble : List AsmLine → Option (List Nat)
  | [] => some []
  | line :: rest =>
    match assembleLine line, assemble rest with
    | some cells, some more => some (cells ++ more)
    | _, _ => none

/-- How a combo operand with a value is written. -/
def comboOperandText : Combo → Option AsmOperand
  | .num n => some (.digit n.val)
  | .reg r => some (.letter r)
  | .reserved _ => none

/-- How a literal operand with a value is written. -/
def literalOperandText : Literal → Option AsmOperand
  | .num n => some (.digit n.val)
  | .outOfRange _ => none

/-- How the operand cell of BXC is written: 0 by omission, 1 to 7 by its digit; above 7 only `.cells` can. -/
def ignoredOperandText (cell : Nat) : Option AsmOperand :=
  if cell = 0 then some .omitted else if cell ≤ 7 then some (.digit cell) else none

/-- Disassembly of a decoded instruction, where the syntax has a form for it. -/
def disassembleInstr : Instr → Option AsmLine
  | .adv op => (comboOperandText op).map (.instr .ADV)
  | .bxl op => (literalOperandText op).map (.instr .BXL)
  | .bst op => (comboOperandText op).map (.instr .BST)
  | .jnz op => (literalOperandText op).map (.instr .JNZ)
  | .bxc cell => (ignoredOperandText cell).map (.instr .BXC)
  | .out op => (comboOperandText op).map (.instr .OUT)
  | .bdv op => (comboOperandText op).map (.instr .BDV)
  | .cdv op => (comboOperandText op).map (.instr .CDV)

/-- Disassembly of a pair, at an even or odd index alike; a pair that raises is shown as `.cells` (R63). -/
def disassemblePair (opc opd : Nat) : AsmLine :=
  match decode opc opd with
  | .instr i => (disassembleInstr i).getD (.cells [opc, opd])
  | .rejected _ => .cells [opc, opd]

/-- The letter of a register. -/
def regText : Reg → String
  | .A => "A"
  | .B => "B"
  | .C => "C"

/-- A list of numbers with commas between. -/
def numbersText : List Nat → String
  | [] => ""
  | [v] => toString v
  | v :: w :: rest => toString v ++ ", " ++ numbersText (w :: rest)

/-- The text of a line (R63). -/
def AsmLine.text : AsmLine → String
  | .instr m (.digit n) => m.text ++ " " ++ toString n
  | .instr m (.letter r) => m.text ++ " " ++ regText r
  | .instr m .omitted => m.text
  | .cells vs => ".cells " ++ numbersText vs

/-- A listing line, `index: opc opd  MNEMONIC operand` (R63). -/
def listingLine (index : Nat) (opc opd : Nat) : String :=
  toString index ++ ": " ++ toString opc ++ " " ++ toString opd ++ "  " ++ (disassemblePair opc opd).text

end Sys2Proof.Machine
end

