-- ==== Sys2Proof/Machine/Flags.lean ====
section
/-! DEFINITION. The control registers as a driver sees them: codes and derived bits
(spec/10_state.md R20 to R24; spec/60_exceptions.md R105).

The core has no condition codes: no instruction sets a flag as a side effect (R24). The only flags are the
Halted flag, which is STATUS = Halted, and the read-only bit MALFORMED. -/
namespace Sys2Proof.Machine

/-- The code of STATUS, bits [1:0] (R20); 3 is never produced. -/
def statusCode : Status → BitVec 2
  | .running => 0
  | .halted => 1
  | .faulted => 2

/-- The code of CAUSE, bits [1:0] (R22); 3 is never stored. -/
def causeCode : Cause → BitVec 2
  | .none => 0
  | .invalidOperand => 1
  | .invalidOpcode => 2

/-- The exceptional conditions of R105. -/
inductive ErrorType where
  | invalidOperand
  | invalidOpcode
  | malformedProgram
  deriving DecidableEq, Repr

/-- Their numeric codes (R105). -/
def errorCode : ErrorType → BitVec 2
  | .invalidOperand => 1
  | .invalidOpcode => 2
  | .malformedProgram => 3

/-- What CAUSE records of an error type: MalformedProgram is never recorded (R105, R108). -/
def errorRecordedAs : ErrorType → Option Cause
  | .invalidOperand => some .invalidOperand
  | .invalidOpcode => some .invalidOpcode
  | .malformedProgram => none

/-- The Halted flag (R21): stored in STATUS, not recomputed from pc (conflict C1). -/
def haltedFlag (s : State) : Bool := decide (s.status = .halted)

/-- MALFORMED = LEN mod 2 (R23, R108). -/
def malformed (s : State) : BitVec 1 := BitVec.ofNat 1 (s.prog.length % 2)

end Sys2Proof.Machine
end

