-- ==== Sys2Proof/Machine/Driver.lean ====
section
/-! DEFINITION. The driver's operations on one instance (spec/70_reset_and_hazards.md R125 to R133, R139;
spec/10_state.md R14, R23, R25 to R27). -/
namespace Sys2Proof.Machine

/-! ### Values from outside -/

/-- What a check of outside values gives. -/
inductive Checked (α : Type) where
  | ok (v : α)
  | bad (r : Refusal)
  deriving DecidableEq, Repr

/-- A register value is a natural number below 2^REG_W; a negative one is refused (R12, R25, R126). -/
def checkReg (p : Params) : Int → Checked Nat
  | .negSucc _ => .bad .negativeRegister
  | .ofNat v => if fitsWidth p.regW v then .ok v else .bad .registerTooWide

/-- Every cell is a natural number below 2^CELL_W (R126). -/
def checkCells (p : Params) : List Int → Checked Memory
  | [] => .ok []
  | .negSucc _ :: _ => .bad .negativeCell
  | .ofNat v :: rest =>
    if cellFits p.cellW v then
      match checkCells p rest with
      | .ok cells => .ok (v :: cells)
      | .bad r => .bad r
    else .bad .cellTooWide

/-- LEN <= LEN_MAX (R7, R126); evenness is not required (R127). -/
def checkProgram (p : Params) (cells : List Int) : Checked Memory :=
  if fitsLength p.lenMax cells.length then checkCells p cells else .bad .programTooLong

/-! ### Construct and SetReg -/

/-- `Construct(P, a, b, c)` (R125) on a core with parameters p, with the sink the driver passes in. The
preconditions of R126 are checked; a refused construction creates no instance. What is not checked is R127. -/
def construct (p : Params) (cells : List Int) (a b c : Int) (sink : List OutVal) :
    Host.Outcome State Fault Refusal :=
  if paramsInRange p then
    match checkProgram p cells, checkReg p a, checkReg p b, checkReg p c with
    | .ok prog, .ok a, .ok b, .ok c =>
      .next { params := p, prog := prog, regA := a, regB := b, regC := c,
              pc := 0, status := .running, cause := .none, sink := sink }
    | .bad r, _, _, _ => .refused r
    | _, .bad r, _, _ => .refused r
    | _, _, .bad r, _ => .refused r
    | _, _, _, .bad r => .refused r
  else .refused .paramsOutOfRange

/-- `SetReg(r, v)` (R25): `x[r] <- v` and nothing else, in every STATUS; refused for a value that does not fit. -/
def setReg (r : Reg) (v : Int) (s : State) : Host.Outcome State Fault Refusal :=
  match checkReg s.params v with
  | .ok v => .next (writeReg r v s)
  | .bad e => .refused e

/-! ### Reads: side-effect free, in every STATUS (R26, R27) -/

/-- `GetReg(r)` (R26). -/
def getReg (r : Reg) (s : State) : Nat := readReg r s

/-- `GetIP()` (R27). -/
def getIP (s : State) : Nat := s.pc

/-- `GetStatus()` (R27). -/
def getStatus (s : State) : Status := s.status

/-- `GetCause()` (R27). -/
def getCause (s : State) : Cause := s.cause

/-! ### The interface as a whole (R133, R139) -/

/-- The operations a driver may perform on a live instance. The sink is the driver's own (R34, R37), so between two
operations it may read it (`readSink`), swap it, or empty it (`swapSink`, with `[]` to empty) (R139). -/
inductive DriverOp where
  | step
  | reset
  | setReg (r : Reg) (v : Int)
  | getReg (r : Reg)
  | getIP
  | getStatus
  | getCause
  | getMalformed
  | readSink
  | swapSink (contents : List OutVal)
  deriving DecidableEq, Repr

/-- What an operation returns to the driver. -/
inductive Reply where
  | nothing
  | number (v : Nat)
  | status (v : Status)
  | cause (v : Cause)
  | bit (v : BitVec 1)
  | contents (vs : List OutVal)
  deriving DecidableEq, Repr

/-- The state after an operation (the table of R133): each is atomic, and the core never acts of itself. -/
def perform (op : DriverOp) (s : State) : Host.Outcome State Fault Refusal :=
  match op with
  | .step => step s
  | .reset => .next (resetInstance s)
  | .setReg r v => setReg r v s
  | .getReg _ => .next s
  | .getIP => .next s
  | .getStatus => .next s
  | .getCause => .next s
  | .getMalformed => .next s
  | .readSink => .next s
  | .swapSink contents => .next { s with sink := contents }

/-- What an operation answers, read before it acts. `Step` returns nothing (R70). -/
def reply (op : DriverOp) (s : State) : Reply :=
  match op with
  | .step => .nothing
  | .reset => .nothing
  | .setReg _ _ => .nothing
  | .getReg r => .number (getReg r s)
  | .getIP => .number (getIP s)
  | .getStatus => .status (getStatus s)
  | .getCause => .cause (getCause s)
  | .getMalformed => .bit (malformed s)
  | .readSink => .contents s.sink
  | .swapSink _ => .nothing

/-- A sequence of operations, one at a time in order (R133). -/
def performAll : List DriverOp → State → Host.Outcome State Fault Refusal
  | [], s => .next s
  | op :: ops, s =>
    match perform op s with
    | .next s' => performAll ops s'
    | .fault f => .fault f
    | .refused r => .refused r

/-- `Run()` under a step budget (R79, R81): while STATUS = Running, Step. -/
def run : Nat → State → Host.Outcome State Fault Refusal
  | 0, s => .next s
  | n + 1, s =>
    if s.status = .running then
      match step s with
      | .next s' => run n s'
      | .fault f => .fault f
      | .refused r => .refused r
    else .next s

end Sys2Proof.Machine
end

