-- ==== Sys2Proof/Machine/Instances.lean ====
section
/-! DEFINITION. Several instances side by side (spec/60_exceptions.md R116, R121; spec/20_memory.md R47): the
composite of n instances is the product of n independent machines. An instance has no name a Program can see;
its place in the list is the driver side's bookkeeping. Instances may hold the same Program. -/
namespace Sys2Proof.Machine

/-- The instances that exist, each with its own registers, pc, STATUS, CAUSE and sink (R121). -/
abbrev System := List State

/-- One operation on the k-th instance; every other instance keeps its state (R116, R121). -/
def performAt (k : Nat) (op : DriverOp) (sys : System) : Host.Outcome System Fault Refusal :=
  match sys[k]? with
  | none => .refused .noSuchInstance
  | some s =>
    match perform op s with
    | .next s' => .next (sys.set k s')
    | .fault f => .fault f
    | .refused r => .refused r

end Sys2Proof.Machine
end

