-- ==== Sys2Proof/Safety.lean ====
section
/-! DEFINITION. What holds of every instance a driver can reach, and what a safe run is
(spec/10_state.md R12, R15, R18, R21, R22; spec/20_memory.md R31; spec/60_exceptions.md R110). -/
namespace Sys2Proof.Machine

/-- The register values fit REG_W (R12). -/
def registersFit (s : State) : Prop := ∀ r : Reg, fitsWidth s.params.regW (readReg r s) = true

/-- In Faulted, the faulting pair is P[pc - 2], P[pc - 1] and it raises the recorded cause (R110). -/
def faultingPairStands (s : State) : Prop :=
  ∃ opc opd, 2 ≤ s.pc ∧ s.prog.cell (s.pc - 2) = some opc ∧ s.prog.cell (s.pc - 1) = some opd ∧
    pairCause opc opd = s.cause

/-- The invariant of a live instance. -/
structure Inv (s : State) : Prop where
  /-- REG_W and CELL_W are at least 3 (R5, R6). -/
  paramsInRange : paramsInRange s.params = true
  /-- Cells fit CELL_W and LEN <= LEN_MAX (R7, R31). -/
  storeWf : s.prog.wf s.params = true
  /-- Registers fit REG_W (R12, R15). -/
  registersFit : registersFit s
  /-- pc <= max(LEN, 7) (R18). -/
  pcBounded : s.pc ≤ max s.prog.length 7
  /-- Halted implies AtEnd (R21). -/
  haltedAtEnd : s.status = .halted → atEnd s = true
  /-- CAUSE is set exactly in Faulted (R22). -/
  causeIffFaulted : s.cause ≠ .none ↔ s.status = .faulted
  /-- The faulting pair can be re-read (R110). -/
  faultedPair : s.status = .faulted → faultingPairStands s

/-- A state of a safe run: no error has stopped it (R79: it is running, or it ended normally). -/
def Safe (s : State) : Prop := s.status ≠ .faulted

end Sys2Proof.Machine
end

