-- ==== Sys2Proof/Certificates/Slice0/Obligations.lean ====
section
/-! DEFINITION. The statements about the machine, by the spec's rules. Nothing is proved here.

Reading aid: `decodeCombo opd` and `decodeLiteral opd` are the operand a cell stands for, so a statement over every
`opd : Nat` is one over every operand form. A statement `exec i s = .next { s with f := v }` is also the frame:
every field not named keeps its value (registers, pc, STATUS, CAUSE, the whole Program, the sink). -/

open Sys2Proof Sys2Proof.Machine

/-! ### Encoding and decoding -/

/-- Words written out from the patterns of spec/opcode_table.json, one per row, and the instruction each stands for. -/
def Obligations.TableWordsDecode : Prop :=
  decodeTableWord 8 0b000101 = some (.adv (.reg .B)) ∧
  decodeTableWord 8 0b001111 = some (.bxl (.num 7)) ∧
  decodeTableWord 8 0b010110 = some (.bst (.reg .C)) ∧
  decodeTableWord 8 0b011011 = some (.jnz (.num 3)) ∧
  decodeTableWord 8 0b100111 = some (.bxc 7) ∧
  decodeTableWord 8 0b101100 = some (.out (.reg .A)) ∧
  decodeTableWord 8 0b110010 = some (.bdv (.num 2)) ∧
  decodeTableWord 8 0b111111 = some (.cdv (.reserved 7))

/-- R57, R58: the opcode cell alone selects the instruction; the map is closed at eight. -/
def Obligations.OpcodeAloneSelectsInstruction : Prop :=
  ∀ opc opd : Nat,
    (opc = 0 → ∃ op, decode opc opd = .instr (.adv op)) ∧ (opc = 1 → ∃ op, decode opc opd = .instr (.bxl op)) ∧
    (opc = 2 → ∃ op, decode opc opd = .instr (.bst op)) ∧ (opc = 3 → ∃ op, decode opc opd = .instr (.jnz op)) ∧
    (opc = 4 → decode opc opd = .instr (.bxc opd)) ∧ (opc = 5 → ∃ op, decode opc opd = .instr (.out op)) ∧
    (opc = 6 → ∃ op, decode opc opd = .instr (.bdv op)) ∧ (opc = 7 → ∃ op, decode opc opd = .instr (.cdv op)) ∧
    (7 < opc → decode opc opd = .rejected (.invalidOpcode opc))

/-- Every well-formed instruction, of a core with cells of any width, is read back from its two cells. -/
def Obligations.EncodeThenDecode : Prop :=
  ∀ (cellW : Nat) (i : Instr), i.wellFormed cellW = true → decode (encode i).1 (encode i).2 = .instr i

/-- Every pair of cells has one meaning: what the decoder reads encodes to the pair it was read from. -/
def Obligations.DecodeThenEncode : Prop :=
  ∀ (opc opd : Nat) (i : Instr), decode opc opd = .instr i → encode i = (opc, opd)

/-- From cells of CELL_W bits the decoder reads instructions that are well-formed for that width. -/
def Obligations.DecodedInstrIsWellFormed : Prop :=
  ∀ (cellW opc opd : Nat) (i : Instr), opd < 2 ^ cellW → decode opc opd = .instr i → i.wellFormed cellW = true

/-- R62, R60, R59: what a Running instance does with every fetched pair, in the decoder's order of checks: the opcode
first, then no check for BXC, then an operand cell above 7, then a combo operand 7. A pair that passes leaves STATUS
and CAUSE alone; one that fails is fault entry on the advanced pc, with nothing else changed. -/
def Obligations.EveryPairRunsOrRaises : Prop :=
  ∀ (s : State) (opc opd : Nat),
    s.status = .running → s.prog.cell s.pc = some opc → s.prog.cell (s.pc + 1) = some opd →
    ∃ t, step s = .next t ∧
      (if 7 < opc then t = { s with pc := s.pc + 2, status := .faulted, cause := .invalidOpcode }
       else if opc = 4 then t.status = .running ∧ t.cause = s.cause
       else if 7 < opd then t = { s with pc := s.pc + 2, status := .faulted, cause := .invalidOperand }
       else if opc = 1 ∨ opc = 3 then t.status = .running ∧ t.cause = s.cause
       else if opd = 7 then t = { s with pc := s.pc + 2, status := .faulted, cause := .invalidOperand }
       else t.status = .running ∧ t.cause = s.cause)

/-- R60 with CELL_W = 3: of the 64 words exactly the five 7, 23, 47, 55, 63 raise, with InvalidOperand; the other 59
run. Said of every instance, with the word placed where its next Step fetches. -/
def Obligations.FiveOfSixtyFourWordsRaise : Prop :=
  ∀ (s : State) (w : Nat), w < 64 →
    ∃ t, step (s.withFetchWord 8 w) = .next t ∧
      (w ∈ [7, 23, 47, 55, 63] → t.status = .faulted ∧ t.cause = .invalidOperand) ∧
      (w ∉ [7, 23, 47, 55, 63] → t.status = .running ∧ t.cause = .none)

/-! ### Operands -/

/-- R54, R55: the operand multiplexer, row by row, and the reserved cell 7. That a cell above 7, which exists only when
CELL_W > 3, raises as well is R59, the spec's own decision D4 and not in R54's table. -/
def Obligations.ComboMultiplexer : Prop :=
  ∀ s : State,
    resolveCombo (decodeCombo 0) s = .value 0 ∧ resolveCombo (decodeCombo 1) s = .value 1 ∧
    resolveCombo (decodeCombo 2) s = .value 2 ∧ resolveCombo (decodeCombo 3) s = .value 3 ∧
    resolveCombo (decodeCombo 4) s = .value s.regA ∧ resolveCombo (decodeCombo 5) s = .value s.regB ∧
    resolveCombo (decodeCombo 6) s = .value s.regC ∧
    ∀ opd, 7 ≤ opd → resolveCombo (decodeCombo opd) s = .error (.invalidOperand opd)

/-- R53: a literal operand is the raw value 0 to 7, never a register. That a cell above 7, which exists only when
CELL_W > 3, raises InvalidOperand is R59, the spec's own decision D4 and not in R53. -/
def Obligations.LiteralIsRawValue : Prop :=
  ∀ opd : Nat, (opd ≤ 7 → resolveLiteral (decodeLiteral opd) = .value opd) ∧
    (7 < opd → resolveLiteral (decodeLiteral opd) = .error (.invalidOperand opd))

/-! ### Arithmetic -/

/-- R85: the three divide instructions give floor(A / 2^val), the logical right shift, exactly: nothing is masked,
the result is at most A, and 2^val > A (so every val >= REG_W, where A < 2^REG_W) gives 0. -/
def Obligations.ShiftIsFloorDivision : Prop :=
  (∀ a k : Nat, shiftDown a k = a / 2 ^ k ∧ shiftDown a k = a >>> k ∧ shiftDown a k ≤ a ∧
    shiftDown a 0 = a ∧ shiftDown 0 k = 0 ∧ (a < 2 ^ k → shiftDown a k = 0) ∧
    ∀ w, a < 2 ^ w → w ≤ k → shiftDown a k = 0) ∧
  ∀ (s : State) (op : Combo) (val : Nat), resolveCombo op s = .value val →
    exec (.adv op) s = .next { s with regA := s.regA / 2 ^ val } ∧
    exec (.bdv op) s = .next { s with regB := s.regA / 2 ^ val } ∧
    exec (.cdv op) s = .next { s with regC := s.regA / 2 ^ val }

/-- R93: what BXC, BXL and BST leave in register B, bit by bit, over the full width: exclusive or, exclusive or on bits
2 to 0 only, and the low three bits; exclusive or of two values below 2^n is below 2^n. -/
def Obligations.RegisterBBitByBit : Prop :=
  ∀ s : State,
    (∀ cell, ∃ t, exec (.bxc cell) s = .next t ∧
      (∀ i, t.regB.testBit i = (s.regB.testBit i ^^ s.regC.testBit i)) ∧
      ∀ n, s.regB < 2 ^ n → s.regC < 2 ^ n → t.regB < 2 ^ n) ∧
    (∀ k : Fin 8, ∃ t, exec (.bxl (.num k)) s = .next t ∧
      (∀ i, i < 3 → t.regB.testBit i = (s.regB.testBit i ^^ k.val.testBit i)) ∧
      ∀ i, 3 ≤ i → t.regB.testBit i = s.regB.testBit i) ∧
    ∀ r : Reg, ∃ t, exec (.bst (.reg r)) s = .next t ∧ t.regB = readReg r s % 8 ∧
      ∀ i, t.regB.testBit i = (decide (i < 3) && (readReg r s).testBit i)

/-! ### The eight instructions: encoding, effect and frame, the operand that raises, the whole Step -/

/-- R86, ADV. -/
def Obligations.AdvDividesA : Prop :=
  ∀ (s : State) (opd : Nat),
    decode 0 opd = .instr (.adv (decodeCombo opd)) ∧ encode (.adv (decodeCombo opd)) = (0, opd) ∧
    (opd ≤ 6 → ∃ val, [0, 1, 2, 3, s.regA, s.regB, s.regC][opd]? = some val ∧
      exec (.adv (decodeCombo opd)) s = .next { s with regA := s.regA / 2 ^ val } ∧
      (s.status = .running → s.prog.cell s.pc = some 0 → s.prog.cell (s.pc + 1) = some opd →
        step s = .next { s with pc := s.pc + 2, regA := s.regA / 2 ^ val })) ∧
    (7 ≤ opd → exec (.adv (decodeCombo opd)) s = .next { s with status := .faulted, cause := .invalidOperand } ∧
      (s.status = .running → s.prog.cell s.pc = some 0 → s.prog.cell (s.pc + 1) = some opd →
        step s = .next { s with pc := s.pc + 2, status := .faulted, cause := .invalidOperand })) ∧
    exec (.adv (decodeCombo 4)) s = .next { s with regA := 0 } ∧ exec (.adv (decodeCombo 0)) s = .next s

/-- R87, BDV. -/
def Obligations.BdvDividesAIntoB : Prop :=
  ∀ (s : State) (opd : Nat),
    decode 6 opd = .instr (.bdv (decodeCombo opd)) ∧ encode (.bdv (decodeCombo opd)) = (6, opd) ∧
    (opd ≤ 6 → ∃ val, [0, 1, 2, 3, s.regA, s.regB, s.regC][opd]? = some val ∧
      exec (.bdv (decodeCombo opd)) s = .next { s with regB := s.regA / 2 ^ val } ∧
      (s.status = .running → s.prog.cell s.pc = some 6 → s.prog.cell (s.pc + 1) = some opd →
        step s = .next { s with pc := s.pc + 2, regB := s.regA / 2 ^ val })) ∧
    (7 ≤ opd → exec (.bdv (decodeCombo opd)) s = .next { s with status := .faulted, cause := .invalidOperand } ∧
      (s.status = .running → s.prog.cell s.pc = some 6 → s.prog.cell (s.pc + 1) = some opd →
        step s = .next { s with pc := s.pc + 2, status := .faulted, cause := .invalidOperand })) ∧
    exec (.bdv (decodeCombo 4)) s = .next { s with regB := 0 } ∧
    exec (.bdv (decodeCombo 0)) s = .next { s with regB := s.regA }

/-- R88, CDV. -/
def Obligations.CdvDividesAIntoC : Prop :=
  ∀ (s : State) (opd : Nat),
    decode 7 opd = .instr (.cdv (decodeCombo opd)) ∧ encode (.cdv (decodeCombo opd)) = (7, opd) ∧
    (opd ≤ 6 → ∃ val, [0, 1, 2, 3, s.regA, s.regB, s.regC][opd]? = some val ∧
      exec (.cdv (decodeCombo opd)) s = .next { s with regC := s.regA / 2 ^ val } ∧
      (s.status = .running → s.prog.cell s.pc = some 7 → s.prog.cell (s.pc + 1) = some opd →
        step s = .next { s with pc := s.pc + 2, regC := s.regA / 2 ^ val })) ∧
    (7 ≤ opd → exec (.cdv (decodeCombo opd)) s = .next { s with status := .faulted, cause := .invalidOperand } ∧
      (s.status = .running → s.prog.cell s.pc = some 7 → s.prog.cell (s.pc + 1) = some opd →
        step s = .next { s with pc := s.pc + 2, status := .faulted, cause := .invalidOperand })) ∧
    exec (.cdv (decodeCombo 4)) s = .next { s with regC := 0 } ∧
    exec (.cdv (decodeCombo 0)) s = .next { s with regC := s.regA }

/-- R90, BXL: the operand is a literal, so 4, 5, 6, 7 are numbers; above 7 it raises. -/
def Obligations.BxlXorsLiteralIntoB : Prop :=
  ∀ (s : State) (opd : Nat),
    decode 1 opd = .instr (.bxl (decodeLiteral opd)) ∧ encode (.bxl (decodeLiteral opd)) = (1, opd) ∧
    (opd ≤ 7 → exec (.bxl (decodeLiteral opd)) s = .next { s with regB := s.regB ^^^ opd } ∧
      (s.status = .running → s.prog.cell s.pc = some 1 → s.prog.cell (s.pc + 1) = some opd →
        step s = .next { s with pc := s.pc + 2, regB := s.regB ^^^ opd })) ∧
    (7 < opd → exec (.bxl (decodeLiteral opd)) s = .next { s with status := .faulted, cause := .invalidOperand } ∧
      (s.status = .running → s.prog.cell s.pc = some 1 → s.prog.cell (s.pc + 1) = some opd →
        step s = .next { s with pc := s.pc + 2, status := .faulted, cause := .invalidOperand })) ∧
    (∀ t, opd ≤ 7 → exec (.bxl (decodeLiteral opd)) s = .next t → exec (.bxl (decodeLiteral opd)) t = .next s)

/-- R91, BST. -/
def Obligations.BstTakesLowThreeBits : Prop :=
  ∀ (s : State) (opd : Nat),
    decode 2 opd = .instr (.bst (decodeCombo opd)) ∧ encode (.bst (decodeCombo opd)) = (2, opd) ∧
    (opd ≤ 6 → ∃ val, [0, 1, 2, 3, s.regA, s.regB, s.regC][opd]? = some val ∧
      exec (.bst (decodeCombo opd)) s = .next { s with regB := val % 8 } ∧
      (s.status = .running → s.prog.cell s.pc = some 2 → s.prog.cell (s.pc + 1) = some opd →
        step s = .next { s with pc := s.pc + 2, regB := val % 8 })) ∧
    (7 ≤ opd → exec (.bst (decodeCombo opd)) s = .next { s with status := .faulted, cause := .invalidOperand } ∧
      (s.status = .running → s.prog.cell s.pc = some 2 → s.prog.cell (s.pc + 1) = some opd →
        step s = .next { s with pc := s.pc + 2, status := .faulted, cause := .invalidOperand })) ∧
    (opd ≤ 3 → exec (.bst (decodeCombo opd)) s = .next { s with regB := opd })

/-- R92, BXC: for every operand cell, 7 and above included; the cell must exist, or the Step halts instead. -/
def Obligations.BxcXorsCIntoB : Prop :=
  ∀ (s : State) (opd : Nat),
    decode 4 opd = .instr (.bxc opd) ∧ encode (.bxc opd) = (4, opd) ∧
    exec (.bxc opd) s = .next { s with regB := s.regB ^^^ s.regC } ∧
    (s.status = .running → s.prog.cell s.pc = some 4 → s.prog.cell (s.pc + 1) = some opd →
      step s = .next { s with pc := s.pc + 2, regB := s.regB ^^^ s.regC }) ∧
    (s.status = .running → s.prog.cell s.pc = some 4 → s.prog.cell (s.pc + 1) = none →
      step s = .next { s with status := .halted })

/-- R95, JNZ: taken, the pointer is the literal itself; not taken, it stays advanced; an operand above 7 raises
whether or not A is zero. -/
def Obligations.JnzBranchesOnNonzeroA : Prop :=
  ∀ (s : State) (opd : Nat),
    decode 3 opd = .instr (.jnz (decodeLiteral opd)) ∧ encode (.jnz (decodeLiteral opd)) = (3, opd) ∧
    (opd ≤ 7 → s.regA ≠ 0 → exec (.jnz (decodeLiteral opd)) s = .next { s with pc := opd } ∧
      (s.status = .running → s.prog.cell s.pc = some 3 → s.prog.cell (s.pc + 1) = some opd →
        step s = .next { s with pc := opd })) ∧
    (opd ≤ 7 → s.regA = 0 → exec (.jnz (decodeLiteral opd)) s = .next s ∧
      (s.status = .running → s.prog.cell s.pc = some 3 → s.prog.cell (s.pc + 1) = some opd →
        step s = .next { s with pc := s.pc + 2 })) ∧
    (7 < opd → exec (.jnz (decodeLiteral opd)) s = .next { s with status := .faulted, cause := .invalidOperand } ∧
      (s.status = .running → s.prog.cell s.pc = some 3 → s.prog.cell (s.pc + 1) = some opd →
        step s = .next { s with pc := s.pc + 2, status := .faulted, cause := .invalidOperand }))

/-- R100, OUT: one value is appended, and it is the operand mod 8. -/
def Obligations.OutEmitsLowThreeBits : Prop :=
  ∀ (s : State) (opd : Nat),
    decode 5 opd = .instr (.out (decodeCombo opd)) ∧ encode (.out (decodeCombo opd)) = (5, opd) ∧
    (opd ≤ 6 → ∃ (val : Nat) (v : OutVal),
      [0, 1, 2, 3, s.regA, s.regB, s.regC][opd]? = some val ∧ v.toNat = val % 8 ∧
      exec (.out (decodeCombo opd)) s = .next { s with sink := s.sink ++ [v] } ∧
      (s.status = .running → s.prog.cell s.pc = some 5 → s.prog.cell (s.pc + 1) = some opd →
        step s = .next { s with pc := s.pc + 2, sink := s.sink ++ [v] })) ∧
    (7 ≤ opd → exec (.out (decodeCombo opd)) s = .next { s with status := .faulted, cause := .invalidOperand } ∧
      (s.status = .running → s.prog.cell s.pc = some 5 → s.prog.cell (s.pc + 1) = some opd →
        step s = .next { s with pc := s.pc + 2, status := .faulted, cause := .invalidOperand }))

/-! ### The Step cycle -/

/-- R73, R74: with STATUS = Running and a pair at pc, whatever the parity of pc, the Step reads the two cells, advances pc
by 2 first, and then runs exactly the decoded instruction's effect; an opcode above 7 raises on the advanced pc. -/
def Obligations.StepRunsDecodedInstr : Prop :=
  ∀ (s : State) (opc opd : Nat),
    s.status = .running → s.prog.cell s.pc = some opc → s.prog.cell (s.pc + 1) = some opd →
    (∀ i, decode opc opd = .instr i → step s = exec i { s with pc := s.pc + 2 }) ∧
    (7 < opc → step s = .next { s with pc := s.pc + 2, status := .faulted, cause := .invalidOpcode })

/-- R71: in Halted or Faulted, one Step and any number of Steps change nothing. -/
def Obligations.StoppedStepsChangeNothing : Prop :=
  ∀ s : State, s.status ≠ .running →
    step s = .next s ∧ ∀ n, performAll (List.replicate n .step) s = .next s

/-- R72, R43: at the end of the Program the Step sets Halted and changes nothing else; this is no error. -/
def Obligations.AtEndStepOnlyHalts : Prop :=
  ∀ s : State, s.status = .running → ¬ s.pc + 1 < s.prog.length → step s = .next { s with status := .halted }

/-- R107: an opcode above 7 raises InvalidOpcode whatever the operand; the opcode can be re-read at pc - 2; with CELL_W = 3
and a Program in the store's form no Step raises it. -/
def Obligations.OpcodeAboveSevenRaises : Prop :=
  (∀ (s : State) (opc opd : Nat), s.status = .running → s.prog.cell s.pc = some opc →
    s.prog.cell (s.pc + 1) = some opd → 7 < opc →
    ∃ t, step s = .next t ∧ t = { s with pc := s.pc + 2, status := .faulted, cause := .invalidOpcode } ∧
      t.prog.cell (t.pc - 2) = some opc) ∧
  ∀ s t : State, s.params.cellW = 3 → s.prog.wf s.params = true → step s = .next t →
    s.cause ≠ .invalidOpcode → t.cause ≠ .invalidOpcode

/-- R110, R109: a Step that enters Faulted writes STATUS, CAUSE and the advanced pc, and nothing else; the faulting
pair can be re-read at pc - 2 and pc - 1. -/
def Obligations.FaultsArePrecise : Prop :=
  ∀ s t : State, s.status = .running → step s = .next t → t.status = .faulted →
    t = { s with pc := s.pc + 2, status := .faulted, cause := t.cause } ∧ t.cause ≠ .none ∧ 2 ≤ t.pc ∧
    ∃ opc opd, t.prog.cell (t.pc - 2) = some opc ∧ t.prog.cell (t.pc - 1) = some opd ∧
      s.prog.cell s.pc = some opc ∧ s.prog.cell (s.pc + 1) = some opd

/-- R76, R43, R36: no Step stops without a next state, from any state at all; no read of an absent cell is reached. -/
def Obligations.EveryStepAnswersNext : Prop :=
  (∀ s : State, ∃ t, step s = .next t) ∧ ∀ (i : Instr) (s : State), ∃ t, exec i s = .next t

/-- R78: the state machine has these transitions and no others. -/
def Obligations.StatusTransitions : Prop :=
  ∀ (op : DriverOp) (s t : State), perform op s = .next t →
    (op = .step → s.status = .running → s.pc + 1 < s.prog.length →
      (t.status = .running ∧ t.cause = s.cause) ∨
      (t.status = .faulted ∧ t.cause ≠ .none ∧ t.pc = s.pc + 2)) ∧
    (op = .step → s.status = .running → ¬ s.pc + 1 < s.prog.length →
      t.status = .halted ∧ t.pc = s.pc ∧ t.cause = s.cause) ∧
    (op = .step → s.status ≠ .running → t = s) ∧
    (op = .reset → t.status = .running ∧ t.pc = 0 ∧ t.cause = .none) ∧
    (op ≠ .step → op ≠ .reset → t.status = s.status ∧ t.pc = s.pc ∧ t.cause = s.cause)

/-- R17: pc is advanced by 2 by a Step that fetches, then overwritten by a taken JNZ with a legal operand; a Step that
does not fetch leaves it. -/
def Obligations.PcChangesOnlyAsStated : Prop :=
  (∀ s t : State, step s = .next t →
    (s.status = .running ∧ s.pc + 1 < s.prog.length →
      (∃ n, n ≤ 7 ∧ s.prog.cell s.pc = some 3 ∧ s.prog.cell (s.pc + 1) = some n ∧ s.regA ≠ 0 ∧ t.pc = n) ∨
      ((s.prog.cell s.pc ≠ some 3 ∨ s.regA = 0 ∨ ∃ n, 7 < n ∧ s.prog.cell (s.pc + 1) = some n) ∧ t.pc = s.pc + 2)) ∧
    (¬ (s.status = .running ∧ s.pc + 1 < s.prog.length) → t.pc = s.pc)) ∧
  (∀ (i : Instr) (s t : State), exec i s = .next t → t.pc ≠ s.pc → ∃ n : Fin 8, i = .jnz (.num n)) ∧
  ∀ s : State, perform .reset s = .next { s with pc := 0, status := .running, cause := .none }

/-- R79: `Run()` is repeated Step. Under any budget it reaches the same state as that many Steps, since a Step after the
run's end changes nothing. -/
def Obligations.RunIsRepeatedStep : Prop :=
  ∀ (n : Nat) (s : State), run n s = performAll (List.replicate n .step) s ∧ run n s = Sys2Proof.core.run n s

/-! ### What can change, and what cannot -/

/-- R32, R46: no instruction, no Step and no sequence of driver operations changes a cell or LEN. That they change no
parameter either is not in R32: R5 to R7 and R10 make the parameters configuration, and that the instance carries them
as fields is the model's DESIGN CHOICE, notes/assumptions/2.md. -/
def Obligations.ProgramNeverChanges : Prop :=
  (∀ (i : Instr) (s t : State), exec i s = .next t → t.prog = s.prog ∧ t.params = s.params) ∧
  ∀ (ops : List DriverOp) (s t : State), performAll ops s = .next t → t.prog = s.prog ∧ t.params = s.params

/-- R101, R37: a Step appends exactly one value if it executes an OUT, and nothing otherwise; no other operation of the
interface emits (the driver may replace the sink, which it owns). -/
def Obligations.OneEmissionPerExecutedOut : Prop :=
  (∀ s t : State, step s = .next t →
    (s.status = .running ∧ s.prog.cell s.pc = some 5 ∧ (∃ opd, opd ≤ 6 ∧ s.prog.cell (s.pc + 1) = some opd) →
      ∃ v : OutVal, t.sink = s.sink ++ [v]) ∧
    (¬ (s.status = .running ∧ s.prog.cell s.pc = some 5 ∧ ∃ opd, opd ≤ 6 ∧ s.prog.cell (s.pc + 1) = some opd) →
      t.sink = s.sink)) ∧
  ∀ (op : DriverOp) (s t : State), perform op s = .next t → op ≠ .step → (∀ c, op ≠ .swapSink c) → t.sink = s.sink

/-- R13: A is written only by ADV, C only by CDV, B only by BXL, BST, BXC and BDV; no instruction writes two. -/
def Obligations.WhoWritesWhichRegister : Prop :=
  ∀ (i : Instr) (s t : State), exec i s = .next t →
    (t.regA ≠ s.regA → ∃ op, i = .adv op) ∧ (t.regC ≠ s.regC → ∃ op, i = .cdv op) ∧
    (t.regB ≠ s.regB → (∃ op, i = .bxl op) ∨ (∃ op, i = .bst op) ∨ (∃ cell, i = .bxc cell) ∨ ∃ op, i = .bdv op)

/-- R13's read columns: an instruction's outcome depends only on the registers it reads. A register outside the table's
row may hold anything: every other register, pc, STATUS, CAUSE and the sink come out the same. -/
def Obligations.UnreadRegisterDoesNotMatter : Prop :=
  ∀ (i : Instr) (r : Reg) (v : Nat) (s t : State), r ∉ instrReads i → exec i s = .next t →
    ∃ u, exec i (writeReg r v s) = .next u ∧ (∀ r', r' ≠ r → readReg r' u = readReg r' t) ∧
      u.pc = t.pc ∧ u.status = t.status ∧ u.cause = t.cause ∧ u.sink = t.sink ∧
      (instrWrites i = some r → t.status ≠ .faulted → readReg r u = readReg r t)

/-- R34, R80: the core never reads the sink. A run's end and what it emits do not depend on what the sink held. -/
def Obligations.SinkContentsNeverMatter : Prop :=
  ∀ (n : Nat) (s t : State), run n s = .next t →
    ∃ emitted : List OutVal, t.sink = s.sink ++ emitted ∧
      ∀ other : List OutVal, run n { s with sink := other } = .next { t with sink := other ++ emitted }

/-! ### Invariants and runs -/

/-- Every Step keeps the invariant of Safety.lean, from every state that has it. -/
def Obligations.StepKeepsInvariant : Prop :=
  ∀ s t : State, Inv s → step s = .next t → Inv t

/-- The model's state after reset has the invariant (its register values and empty Program are the model's choice,
notes/assumptions/1.md). -/
def Obligations.ResetStateHasInvariant : Prop := Inv State.reset

/-- Every instance a driver can reach has the invariant: a construction that is not refused establishes it, and every
sequence of operations keeps it. -/
def Obligations.ReachableInstancesKeepInvariant : Prop :=
  (∀ (p : Params) (cells : List Int) (a b c : Int) (sink : List OutVal) (s : State),
    construct p cells a b c sink = .next s → Inv s) ∧
  ∀ (ops : List DriverOp) (s t : State), Inv s → performAll ops s = .next t → Inv t

/-- R15: registers below 2^m, m at least 3, stay below 2^m through any number of Steps, so no result is ever too wide.
The second clause, that a core with any parameters computes exactly what a core with any others does, is R15's for REG_W
and for states whose registers fit; that it holds of the other parameters, and of registers that do not fit, is the
model's: writes are not cut to REG_W, DEDUCED, notes/assumptions/13.md, and parameters are fields of the instance,
DESIGN CHOICE, notes/assumptions/2.md. -/
def Obligations.RegistersNeverGrowWider : Prop :=
  (∀ (n m : Nat) (s t : State), 3 ≤ m → s.regA < 2 ^ m → s.regB < 2 ^ m → s.regC < 2 ^ m →
    performAll (List.replicate n .step) s = .next t → t.regA < 2 ^ m ∧ t.regB < 2 ^ m ∧ t.regC < 2 ^ m) ∧
  ∀ (p : Params) (s t : State), step s = .next t → step { s with params := p } = .next { t with params := p }

/-- R18, R8: at every moment of an instance's life pc <= max(LEN, 7), so it fits IP_W bits. In a Program of fewer than 7
cells a branch may take pc past the end (R95, R96). -/
def Obligations.PcAtMostLenOrSeven : Prop :=
  ∀ (p : Params) (cells : List Int) (a b c : Int) (sink : List OutVal) (ops : List DriverOp) (s t : State),
    construct p cells a b c sink = .next s → performAll ops s = .next t →
    t.pc ≤ max t.prog.length 7 ∧ ∀ w, ipWidth t.params = .finite w → 3 ≤ w ∧ t.pc < 2 ^ w

/-- R21, R22: at every moment of an instance's life Halted implies AtEnd, and CAUSE is set exactly in Faulted. -/
def Obligations.StatusAndCauseAgree : Prop :=
  ∀ (p : Params) (cells : List Int) (a b c : Int) (sink : List OutVal) (ops : List DriverOp) (s t : State),
    construct p cells a b c sink = .next s → performAll ops s = .next t →
    (t.status = .halted → ¬ t.pc + 1 < t.prog.length) ∧ (t.cause ≠ .none ↔ t.status = .faulted)

/-- From R81, R85, R95: with A = 0 no branch is taken and A stays 0, so a run ends within one Step more than the
instructions from pc to the end. -/
def Obligations.RunWithZeroAEnds : Prop :=
  ∀ (n : Nat) (s : State), s.regA = 0 → s.prog.length ≤ s.pc + 2 * n →
    ∃ t, run (n + 1) s = .next t ∧ t.status ≠ .running ∧ t.regA = 0

/-- From R81 and R95: a JNZ to its own index with A not zero is executed for ever; no number of Steps changes anything. -/
def Obligations.SelfBranchNeverEnds : Prop :=
  ∀ s : State, s.status = .running → s.prog.cell s.pc = some 3 → s.prog.cell (s.pc + 1) = some s.pc → s.pc ≤ 7 →
    s.regA ≠ 0 → ∀ n, run n s = .next s

/-- From R81 and R13: along a run A never increases, since only ADV writes it and ADV shifts right. -/
def Obligations.RunNeverIncreasesA : Prop :=
  ∀ (n : Nat) (s t : State), run n s = .next t → t.regA ≤ s.regA

/-! ### The driver's operations -/

/-- R125, R127: a construction with values that fit gives exactly this instance, whose MALFORMED bit reports an odd length;
the Program's parity, emptiness and contents (within CELL_W) are not checked. -/
def Obligations.ConstructLoadsInstance : Prop :=
  ∀ (p : Params) (prog : List Nat) (a b c : Nat) (sink : List OutVal),
    (∀ w, p.regW = .finite w → 3 ≤ w ∧ a < 2 ^ w ∧ b < 2 ^ w ∧ c < 2 ^ w) → 3 ≤ p.cellW →
    (∀ x ∈ prog, x < 2 ^ p.cellW) → (∀ m, p.lenMax = .finite m → prog.length ≤ m) →
    ∃ s, construct p (prog.map Int.ofNat) (Int.ofNat a) (Int.ofNat b) (Int.ofNat c) sink = .next s ∧
      s = { params := p, prog := prog, regA := a, regB := b, regC := c, pc := 0, status := .running,
            cause := .none, sink := sink } ∧
      (malformed s).toNat = prog.length % 2

/-- R126: on a core whose parameters are in range (R5, R6), a construction is refused, and gives no instance, exactly
when a register value is negative or too wide, a cell is negative or too wide, or the Program is longer than LEN_MAX. -/
def Obligations.ConstructRefusesExactlyBadValues : Prop :=
  ∀ (p : Params) (cells : List Int) (a b c : Int) (sink : List OutVal),
    (∀ w, p.regW = .finite w → 3 ≤ w) → 3 ≤ p.cellW →
    ((∃ r, construct p cells a b c sink = .refused r) ↔
      (a < 0 ∨ b < 0 ∨ c < 0 ∨
        (∃ w, p.regW = .finite w ∧ ((2 : Int) ^ w ≤ a ∨ (2 : Int) ^ w ≤ b ∨ (2 : Int) ^ w ≤ c)) ∨
        (∃ x ∈ cells, x < 0 ∨ (2 : Int) ^ p.cellW ≤ x) ∨
        (∃ m, p.lenMax = .finite m ∧ m < cells.length)))

/-- R128, R129, R130: Reset, in every STATUS, sets pc, STATUS and CAUSE and nothing else (not the registers, not the
Program, not the sink); two in a row are one. -/
def Obligations.ResetEffect : Prop :=
  ∀ s : State, perform .reset s = .next { s with pc := 0, status := .running, cause := .none } ∧
    performAll [.reset, .reset] s = performAll [.reset] s

/-- R25: SetReg, in every STATUS, writes the named register and nothing else; a value that is negative or does not fit
REG_W is refused. -/
def Obligations.SetRegWritesOneRegister : Prop :=
  (∀ (s : State) (v : Nat), (∀ w, s.params.regW = .finite w → v < 2 ^ w) →
    perform (.setReg .A (Int.ofNat v)) s = .next { s with regA := v } ∧
    perform (.setReg .B (Int.ofNat v)) s = .next { s with regB := v } ∧
    perform (.setReg .C (Int.ofNat v)) s = .next { s with regC := v }) ∧
  ∀ (s : State) (r : Reg) (v : Int),
    (v < 0 ∨ ∃ w, s.params.regW = .finite w ∧ (2 : Int) ^ w ≤ v) → ∃ e, perform (.setReg r v) s = .refused e

/-- R26, R27: the reads answer the state's values, in every STATUS, and change nothing. -/
def Obligations.ReadsChangeNothing : Prop :=
  ∀ s : State,
    (∀ r, perform (.getReg r) s = .next s) ∧ perform .getIP s = .next s ∧ perform .getStatus s = .next s ∧
    perform .getCause s = .next s ∧ perform .getMalformed s = .next s ∧
    reply (.getReg .A) s = .number s.regA ∧ reply (.getReg .B) s = .number s.regB ∧
    reply (.getReg .C) s = .number s.regC ∧ reply .getIP s = .number s.pc ∧
    reply .getStatus s = .status s.status ∧ reply .getCause s = .cause s.cause ∧
    reply .getMalformed s = .bit (malformed s)

/-- R139, R34, R37: between two operations the driver may read the sink, which answers everything in it and changes
nothing, and may swap or empty it, which changes nothing of the core; after a Step that emits, a read answers what it
answered before and the one value after it. -/
def Obligations.DriverReadsAndSwapsSink : Prop :=
  (∀ s : State, perform .readSink s = .next s ∧ reply .readSink s = .contents s.sink) ∧
  (∀ (s : State) (vs : List OutVal), ∃ t, perform (.swapSink vs) s = .next t ∧ t = { s with sink := vs } ∧
    reply .readSink t = .contents vs) ∧
  ∀ (s : State) (opd : Nat), s.status = .running → s.prog.cell s.pc = some 5 → s.prog.cell (s.pc + 1) = some opd →
    opd ≤ 6 → ∃ t v, perform .step s = .next t ∧ reply .readSink t = .contents (s.sink ++ [v])

/-- R23, R108: MALFORMED is LEN mod 2 and constant along every sequence of operations; a Running instance at the last
cell, which only an odd remainder of cells gives, halts normally. -/
def Obligations.MalformedIsParityOfLength : Prop :=
  (∀ s : State, (malformed s).toNat = s.prog.length % 2) ∧
  (∀ (ops : List DriverOp) (s t : State), performAll ops s = .next t → malformed t = malformed s) ∧
  ∀ s : State, s.status = .running → s.pc + 1 = s.prog.length → step s = .next { s with status := .halted }

/-- R138: a Program of no cell or one: after construction the instance is Running, and its first Step sets Halted and
changes nothing else. -/
def Obligations.EmptyProgramHaltsAtOnce : Prop :=
  ∀ (p : Params) (cells : List Int) (a b c : Int) (sink : List OutVal) (s : State),
    cells.length ≤ 1 → construct p cells a b c sink = .next s →
    s.status = .running ∧ s.pc = 0 ∧ step s = .next { s with status := .halted }

/-- R129, R80: re-assigning the registers and resetting reproduces a run: the same end, and the same values emitted
again, after those already in the sink. -/
def Obligations.ResetReproducesRun : Prop :=
  ∀ (n : Nat) (s t : State), registersFit s → s.pc = 0 → s.status = .running → s.cause = .none →
    run n s = .next t →
    ∃ (emitted : List OutVal) (u : State), t.sink = s.sink ++ emitted ∧
      performAll [.setReg .A (Int.ofNat s.regA), .setReg .B (Int.ofNat s.regB), .setReg .C (Int.ofNat s.regC), .reset] t
        = .next u ∧
      run n u = .next { t with sink := t.sink ++ emitted }

/-- R113, R114: Faulted is sticky. Without a Reset among them, no operations change STATUS, CAUSE, pc or the Program, and
no instruction runs: Steps leave everything; only SetReg changes a register. -/
def Obligations.FaultedUntilReset : Prop :=
  ∀ (ops : List DriverOp) (s t : State), s.status = .faulted → .reset ∉ ops → performAll ops s = .next t →
    t.status = .faulted ∧ t.cause = s.cause ∧ t.pc = s.pc ∧ t.prog = s.prog ∧
    (∀ r, (∀ v, .setReg r v ∉ ops) → readReg r t = readReg r s) ∧ ((∀ c, .swapSink c ∉ ops) → t.sink = s.sink)

/-- R20, R22, R105: the codes, and what CAUSE can record. -/
def Obligations.ControlRegisterCodes : Prop :=
  (statusCode .running).toNat = 0 ∧ (statusCode .halted).toNat = 1 ∧ (statusCode .faulted).toNat = 2 ∧
  (causeCode .none).toNat = 0 ∧ (causeCode .invalidOperand).toNat = 1 ∧ (causeCode .invalidOpcode).toNat = 2 ∧
  (errorCode .invalidOperand).toNat = 1 ∧ (errorCode .invalidOpcode).toNat = 2 ∧
  (errorCode .malformedProgram).toNat = 3 ∧ errorRecordedAs .malformedProgram = none ∧
  (∀ st, (statusCode st).toNat ≠ 3) ∧ (∀ c, (causeCode c).toNat ≠ 3) ∧
  ∀ e c, errorRecordedAs e = some c → causeCode c = errorCode e

/-- R121, R47, R116: operations on two instances give the same in either order, and an operation on one leaves every
other as it was. -/
def Obligations.InstancesAreIndependent : Prop :=
  (∀ (sys sys₁ sys₂ : System) (j k : Nat) (op₁ op₂ : DriverOp), j ≠ k →
    performAt j op₁ sys = .next sys₁ → performAt k op₂ sys₁ = .next sys₂ →
    ∃ sys₃, performAt k op₂ sys = .next sys₃ ∧ performAt j op₁ sys₃ = .next sys₂) ∧
  ∀ (sys sys' : System) (j k : Nat) (op : DriverOp), j ≠ k → performAt j op sys = .next sys' → sys'[k]? = sys[k]?

/-! ### The store and the assembly syntax -/

/-- R9 (MemRead), R31, R39: a read of n cells gives P[addr], ..., lowest index first, when they all exist. R9 leaves a
read past LEN undefined: that it is a fault (second clause) is the model's choice, DEDUCED, notes/assumptions/3.md and
notes/assumptions/5.md. -/
def Obligations.MemReadGivesCellsInOrder : Prop :=
  ∀ (m : Memory) (addr n : Nat),
    (addr + n ≤ m.length → ∃ cells, memRead m addr n = .ok cells ∧ cells.length = n ∧
      ∀ k, k < n → cells[k]? = m.cell (addr + k)) ∧
    (m.length < addr + n → ∃ f, memRead m addr n = .error f)

/-- R63: the listing of any pair assembles to that pair; a written instruction with an accepted operand assembles to a
pair that decodes to an instruction of its mnemonic and does not raise; `OUT 4` is not accepted. -/
def Obligations.AssemblyRoundTrip : Prop :=
  (∀ opc opd : Nat, assembleLine (disassemblePair opc opd) = some [opc, opd]) ∧
  (∀ (m : Mnemonic) (o : AsmOperand) (cells : List Nat), assembleLine (.instr m o) = some cells →
    ∃ opd, cells = [m.opcode, opd] ∧ pairCause m.opcode opd = .none) ∧
  assembleLine (.instr .OUT (.digit 4)) = none ∧ assembleLine (.instr .OUT (.letter .A)) = some [5, 4]
end

