-- ==== Sys2Proof/Laws/State.lean ====
section
/-! SUPPORT. One lemma per field and update of State, so that no proof unfolds a record update
(the operations of Machine/Ops.lean and State.withFetchWord). -/
namespace Sys2Proof.Machine

/-! ### advancePc -/

@[simp] theorem advancePc_params (s : State) : (advancePc s).params = s.params := rfl
@[simp] theorem advancePc_prog (s : State) : (advancePc s).prog = s.prog := rfl
@[simp] theorem advancePc_regA (s : State) : (advancePc s).regA = s.regA := rfl
@[simp] theorem advancePc_regB (s : State) : (advancePc s).regB = s.regB := rfl
@[simp] theorem advancePc_regC (s : State) : (advancePc s).regC = s.regC := rfl
@[simp] theorem advancePc_pc (s : State) : (advancePc s).pc = s.pc + 2 := rfl
@[simp] theorem advancePc_status (s : State) : (advancePc s).status = s.status := rfl
@[simp] theorem advancePc_cause (s : State) : (advancePc s).cause = s.cause := rfl
@[simp] theorem advancePc_sink (s : State) : (advancePc s).sink = s.sink := rfl

/-! ### setPc -/

@[simp] theorem setPc_params (t : Nat) (s : State) : (setPc t s).params = s.params := rfl
@[simp] theorem setPc_prog (t : Nat) (s : State) : (setPc t s).prog = s.prog := rfl
@[simp] theorem setPc_regA (t : Nat) (s : State) : (setPc t s).regA = s.regA := rfl
@[simp] theorem setPc_regB (t : Nat) (s : State) : (setPc t s).regB = s.regB := rfl
@[simp] theorem setPc_regC (t : Nat) (s : State) : (setPc t s).regC = s.regC := rfl
@[simp] theorem setPc_pc (t : Nat) (s : State) : (setPc t s).pc = t := rfl
@[simp] theorem setPc_status (t : Nat) (s : State) : (setPc t s).status = s.status := rfl
@[simp] theorem setPc_cause (t : Nat) (s : State) : (setPc t s).cause = s.cause := rfl
@[simp] theorem setPc_sink (t : Nat) (s : State) : (setPc t s).sink = s.sink := rfl

/-! ### halt -/

@[simp] theorem halt_params (s : State) : (halt s).params = s.params := rfl
@[simp] theorem halt_prog (s : State) : (halt s).prog = s.prog := rfl
@[simp] theorem halt_regA (s : State) : (halt s).regA = s.regA := rfl
@[simp] theorem halt_regB (s : State) : (halt s).regB = s.regB := rfl
@[simp] theorem halt_regC (s : State) : (halt s).regC = s.regC := rfl
@[simp] theorem halt_pc (s : State) : (halt s).pc = s.pc := rfl
@[simp] theorem halt_status (s : State) : (halt s).status = .halted := rfl
@[simp] theorem halt_cause (s : State) : (halt s).cause = s.cause := rfl
@[simp] theorem halt_sink (s : State) : (halt s).sink = s.sink := rfl

/-! ### emit -/

@[simp] theorem emit_params (v : OutVal) (s : State) : (emit v s).params = s.params := rfl
@[simp] theorem emit_prog (v : OutVal) (s : State) : (emit v s).prog = s.prog := rfl
@[simp] theorem emit_regA (v : OutVal) (s : State) : (emit v s).regA = s.regA := rfl
@[simp] theorem emit_regB (v : OutVal) (s : State) : (emit v s).regB = s.regB := rfl
@[simp] theorem emit_regC (v : OutVal) (s : State) : (emit v s).regC = s.regC := rfl
@[simp] theorem emit_pc (v : OutVal) (s : State) : (emit v s).pc = s.pc := rfl
@[simp] theorem emit_status (v : OutVal) (s : State) : (emit v s).status = s.status := rfl
@[simp] theorem emit_cause (v : OutVal) (s : State) : (emit v s).cause = s.cause := rfl
@[simp] theorem emit_sink (v : OutVal) (s : State) : (emit v s).sink = s.sink ++ [v] := rfl

/-! ### raiseError -/

@[simp] theorem raiseError_params (e : Raised) (s : State) : (raiseError e s).params = s.params := rfl
@[simp] theorem raiseError_prog (e : Raised) (s : State) : (raiseError e s).prog = s.prog := rfl
@[simp] theorem raiseError_regA (e : Raised) (s : State) : (raiseError e s).regA = s.regA := rfl
@[simp] theorem raiseError_regB (e : Raised) (s : State) : (raiseError e s).regB = s.regB := rfl
@[simp] theorem raiseError_regC (e : Raised) (s : State) : (raiseError e s).regC = s.regC := rfl
@[simp] theorem raiseError_pc (e : Raised) (s : State) : (raiseError e s).pc = s.pc := rfl
@[simp] theorem raiseError_status (e : Raised) (s : State) : (raiseError e s).status = .faulted := rfl
@[simp] theorem raiseError_cause (e : Raised) (s : State) : (raiseError e s).cause = e.cause := rfl
@[simp] theorem raiseError_sink (e : Raised) (s : State) : (raiseError e s).sink = s.sink := rfl

/-! ### resetInstance -/

@[simp] theorem resetInstance_params (s : State) : (resetInstance s).params = s.params := rfl
@[simp] theorem resetInstance_prog (s : State) : (resetInstance s).prog = s.prog := rfl
@[simp] theorem resetInstance_regA (s : State) : (resetInstance s).regA = s.regA := rfl
@[simp] theorem resetInstance_regB (s : State) : (resetInstance s).regB = s.regB := rfl
@[simp] theorem resetInstance_regC (s : State) : (resetInstance s).regC = s.regC := rfl
@[simp] theorem resetInstance_pc (s : State) : (resetInstance s).pc = 0 := rfl
@[simp] theorem resetInstance_status (s : State) : (resetInstance s).status = .running := rfl
@[simp] theorem resetInstance_cause (s : State) : (resetInstance s).cause = .none := rfl
@[simp] theorem resetInstance_sink (s : State) : (resetInstance s).sink = s.sink := rfl

/-! ### writeReg -/

@[simp] theorem writeReg_params (r : Reg) (v : Nat) (s : State) : (writeReg r v s).params = s.params := by
  cases r <;> rfl
@[simp] theorem writeReg_prog (r : Reg) (v : Nat) (s : State) : (writeReg r v s).prog = s.prog := by
  cases r <;> rfl
@[simp] theorem writeReg_pc (r : Reg) (v : Nat) (s : State) : (writeReg r v s).pc = s.pc := by
  cases r <;> rfl
@[simp] theorem writeReg_status (r : Reg) (v : Nat) (s : State) : (writeReg r v s).status = s.status := by
  cases r <;> rfl
@[simp] theorem writeReg_cause (r : Reg) (v : Nat) (s : State) : (writeReg r v s).cause = s.cause := by
  cases r <;> rfl
@[simp] theorem writeReg_sink (r : Reg) (v : Nat) (s : State) : (writeReg r v s).sink = s.sink := by
  cases r <;> rfl
@[simp] theorem writeReg_A_regA (v : Nat) (s : State) : (writeReg .A v s).regA = v := rfl
@[simp] theorem writeReg_A_regB (v : Nat) (s : State) : (writeReg .A v s).regB = s.regB := rfl
@[simp] theorem writeReg_A_regC (v : Nat) (s : State) : (writeReg .A v s).regC = s.regC := rfl
@[simp] theorem writeReg_B_regA (v : Nat) (s : State) : (writeReg .B v s).regA = s.regA := rfl
@[simp] theorem writeReg_B_regB (v : Nat) (s : State) : (writeReg .B v s).regB = v := rfl
@[simp] theorem writeReg_B_regC (v : Nat) (s : State) : (writeReg .B v s).regC = s.regC := rfl
@[simp] theorem writeReg_C_regA (v : Nat) (s : State) : (writeReg .C v s).regA = s.regA := rfl
@[simp] theorem writeReg_C_regB (v : Nat) (s : State) : (writeReg .C v s).regB = s.regB := rfl
@[simp] theorem writeReg_C_regC (v : Nat) (s : State) : (writeReg .C v s).regC = v := rfl
@[simp] theorem readReg_A (s : State) : readReg .A s = s.regA := rfl
@[simp] theorem readReg_B (s : State) : readReg .B s = s.regB := rfl
@[simp] theorem readReg_C (s : State) : readReg .C s = s.regC := rfl

@[simp] theorem readReg_writeReg_same (r : Reg) (v : Nat) (s : State) : readReg r (writeReg r v s) = v := by
  cases r <;> rfl

theorem readReg_writeReg_of_ne {r r' : Reg} (h : r' ≠ r) (v : Nat) (s : State) :
    readReg r' (writeReg r v s) = readReg r' s := by
  cases r <;> cases r' <;> first | rfl | exact absurd rfl h

/-! ### Register reads after the other updates -/

@[simp] theorem readReg_advancePc (r : Reg) (s : State) : readReg r (advancePc s) = readReg r s := by
  cases r <;> rfl
@[simp] theorem readReg_setPc (r : Reg) (t : Nat) (s : State) : readReg r (setPc t s) = readReg r s := by
  cases r <;> rfl
@[simp] theorem readReg_halt (r : Reg) (s : State) : readReg r (halt s) = readReg r s := by
  cases r <;> rfl
@[simp] theorem readReg_emit (r : Reg) (v : OutVal) (s : State) : readReg r (emit v s) = readReg r s := by
  cases r <;> rfl
@[simp] theorem readReg_raiseError (r : Reg) (e : Raised) (s : State) : readReg r (raiseError e s) = readReg r s := by
  cases r <;> rfl
@[simp] theorem readReg_resetInstance (r : Reg) (s : State) : readReg r (resetInstance s) = readReg r s := by
  cases r <;> rfl

/-! ### State.withFetchWord -/

@[simp] theorem withFetchWord_params (s : State) (nbits w : Nat) : (s.withFetchWord nbits w).params =
    s.params := rfl
@[simp] theorem withFetchWord_prog (s : State) (nbits w : Nat) : (s.withFetchWord nbits w).prog =
    s.prog.placePair s.pc (tableWordCells nbits w).1 (tableWordCells nbits w).2 := rfl
@[simp] theorem withFetchWord_regA (s : State) (nbits w : Nat) : (s.withFetchWord nbits w).regA = s.regA := rfl
@[simp] theorem withFetchWord_regB (s : State) (nbits w : Nat) : (s.withFetchWord nbits w).regB = s.regB := rfl
@[simp] theorem withFetchWord_regC (s : State) (nbits w : Nat) : (s.withFetchWord nbits w).regC = s.regC := rfl
@[simp] theorem withFetchWord_pc (s : State) (nbits w : Nat) : (s.withFetchWord nbits w).pc = s.pc := rfl
@[simp] theorem withFetchWord_status (s : State) (nbits w : Nat) : (s.withFetchWord nbits w).status =
    .running := rfl
@[simp] theorem withFetchWord_cause (s : State) (nbits w : Nat) : (s.withFetchWord nbits w).cause = .none := rfl
@[simp] theorem withFetchWord_sink (s : State) (nbits w : Nat) : (s.withFetchWord nbits w).sink = s.sink := rfl

end Sys2Proof.Machine
end

