-- ==== Sys2Proof/Laws/Ops.lean ====
section
/-! SUPPORT. What the shared operations do: bit lengths, the Program Store, operand resolution. -/
namespace Sys2Proof.Machine

/-! ### Bit length (R15) -/

/-- `bitLength v` is the least n with v < 2^n. -/
theorem bitLength_le_iff (v n : Nat) : bitLength v ≤ n ↔ v < 2 ^ n := by
  unfold bitLength
  split
  · next h => subst h; simp
  · next h => rw [Nat.add_one_le_iff, Nat.log2_lt h]

theorem lt_two_pow_bitLength (v : Nat) : v < 2 ^ bitLength v := (bitLength_le_iff v _).1 le_rfl

/-! ### The Program Store -/

@[simp] theorem memory_cell_eq (m : Memory) (i : Nat) : m.cell i = m[i]? := rfl

/-- The read of a pair gives the two cells, lowest index first, exactly when both exist. -/
theorem memRead_pair (m : Memory) (a : Nat) (h : a + 1 < m.length) :
    memRead m a 2 = .ok [m[a], m[a + 1]] := by
  have h2 : (m.drop a).take 2 = [m[a], m[a + 1]] := by
    rw [List.drop_eq_getElem_cons (by omega), List.drop_eq_getElem_cons h]
    rfl
  simp [memRead, show a + 2 ≤ m.length from h, h2]

theorem memory_wf_iff (p : Params) (m : Memory) :
    m.wf p = true ↔ (∀ c ∈ m, c < 2 ^ p.cellW) ∧ fitsLength p.lenMax m.length = true := by
  simp [Memory.wf, cellFits]

/-- The store of a fresh instance has the form. -/
theorem reset_memory_wf : State.reset.prog.wf State.reset.params = true := by decide

theorem placePair_length (m : Memory) (a : Nat) (opc opd : Nat) :
    (m.placePair a opc opd).length = max m.length (a + 2) := by
  simp [Memory.placePair]; omega

/-- Placing a pair keeps the store's form, if the cells fit and the lengthened store does. -/
theorem placePair_wf {p : Params} {m : Memory} {a : Nat} {opc opd : Nat} (hm : m.wf p = true)
    (hopc : opc < 2 ^ p.cellW) (hopd : opd < 2 ^ p.cellW)
    (hlen : fitsLength p.lenMax (max m.length (a + 2)) = true) : (m.placePair a opc opd).wf p = true := by
  rw [memory_wf_iff] at hm ⊢
  refine ⟨fun c hc => ?_, by rw [placePair_length]; exact hlen⟩
  rcases List.mem_or_eq_of_mem_set hc with hc | rfl
  · rcases List.mem_or_eq_of_mem_set hc with hc | rfl
    · rcases List.mem_append.1 hc with hc | hc
      · exact hm.1 c hc
      · rw [(List.mem_replicate.1 hc).2]; exact Nat.two_pow_pos _
    · exact hopc
  · exact hopd

/-- The placed pair is what the next fetch reads. -/
theorem placePair_cell_first (m : Memory) (a : Nat) (opc opd : Nat) :
    (m.placePair a opc opd)[a]? = some opc := by
  have : a < m.length + (a + 2 - m.length) := by omega
  simp [Memory.placePair, this]

theorem placePair_cell_second (m : Memory) (a : Nat) (opc opd : Nat) :
    (m.placePair a opc opd)[a + 1]? = some opd := by
  have : a + 1 < m.length + (a + 2 - m.length) := by omega
  simp [Memory.placePair, this]

/-! ### Operand resolution -/

/-- An effect with an operand always ends in a next state: the effect's, or fault entry. -/
theorem withOperand_cases {r : Resolved} {effect : Nat → State → State} {s t : State}
    (h : withOperand r effect s = .next t) :
    (∃ v, r = .value v ∧ t = effect v s) ∨ (∃ e, r = .error e ∧ t = raiseError e s) := by
  cases r with
  | value v => exact .inl ⟨v, rfl, by simpa [withOperand] using h.symm⟩
  | error e => exact .inr ⟨e, rfl, by simpa [withOperand] using h.symm⟩

theorem resolveCombo_error {op : Combo} {s : State} {e : Raised} (h : resolveCombo op s = .error e) :
    ∃ cell, op = .reserved cell ∧ e = .invalidOperand cell := by
  cases op with
  | num n => simp [resolveCombo] at h
  | reg r => simp [resolveCombo] at h
  | reserved cell => exact ⟨cell, rfl, by simpa [resolveCombo] using h.symm⟩

theorem resolveLiteral_error {op : Literal} {e : Raised} (h : resolveLiteral op = .error e) :
    ∃ cell, op = .outOfRange cell ∧ e = .invalidOperand cell := by
  cases op with
  | num n => simp [resolveLiteral] at h
  | outOfRange cell => exact ⟨cell, rfl, by simpa [resolveLiteral] using h.symm⟩

theorem resolveLiteral_value {op : Literal} {v : Nat} (h : resolveLiteral op = .value v) :
    ∃ n : Fin 8, op = .num n ∧ v = n.val := by
  cases op with
  | num n => exact ⟨n, rfl, by simpa [resolveLiteral] using h.symm⟩
  | outOfRange cell => simp [resolveLiteral] at h

/-- Resolution reads registers only. -/
theorem resolveCombo_congr {op : Combo} {s t : State} (h : ∀ r, readReg r s = readReg r t) :
    resolveCombo op s = resolveCombo op t := by
  cases op with
  | num n => rfl
  | reg r => simp [resolveCombo, h r]
  | reserved cell => rfl

/-! ### Decoding outside the tables -/

theorem decodeCombo_reserved {cell : Nat} (h : 7 ≤ cell) : decodeCombo cell = .reserved cell := by
  unfold decodeCombo
  split <;> first | omega | rfl

theorem decodeLiteral_outOfRange {cell : Nat} (h : 8 ≤ cell) : decodeLiteral cell = .outOfRange cell := by
  unfold decodeLiteral
  split <;> first | omega | rfl

theorem decode_rejected {opc : Nat} (h : 8 ≤ opc) (opd : Nat) :
    decode opc opd = .rejected (.invalidOpcode opc) := by
  unfold decode
  split <;> first | omega | rfl

end Sys2Proof.Machine
end

