-- ==== Sys2Proof/Laws/Step.lean ====
section
/-! SUPPORT. Once for all: everything an instruction's effect can do, and everything a Step can do. -/
namespace Sys2Proof.Machine

/-- Every instruction ends in a next state. -/
theorem exec_next (i : Instr) (s : State) : ∃ t, exec i s = .next t := by
  cases i <;> simp only [exec, execAdv, execBxl, execBst, execJnz, execBxc, execOut, execBdv, execCdv, withOperand] <;>
    first
    | exact ⟨_, rfl⟩
    | (split <;> exact ⟨_, rfl⟩)

/-- What an instruction's effect can be: the write of one register with a value of the stated form, a branch to one
of 0 to 7 taken with A not zero, nothing (a branch not taken), one emission, or InvalidOperand. -/
theorem exec_cases {i : Instr} {s t : State} (h : exec i s = .next t) :
    (∃ op v r, (i = .adv op ∧ r = .A ∨ i = .bdv op ∧ r = .B ∨ i = .cdv op ∧ r = .C) ∧
      resolveCombo op s = .value v ∧ t = writeReg r (shiftDown s.regA v) s) ∨
    (∃ n : Fin 8, i = .bxl (.num n) ∧ t = writeReg .B (bitXor s.regB n.val) s) ∨
    (∃ op v, i = .bst op ∧ resolveCombo op s = .value v ∧ t = writeReg .B (low3 v) s) ∨
    (∃ n : Fin 8, i = .jnz (.num n) ∧ s.regA ≠ 0 ∧ t = setPc n.val s) ∨
    (∃ n : Fin 8, i = .jnz (.num n) ∧ s.regA = 0 ∧ t = s) ∨
    (∃ cell, i = .bxc cell ∧ t = writeReg .B (bitXor s.regB s.regC) s) ∨
    (∃ op v, i = .out op ∧ resolveCombo op s = .value v ∧ t = emit (portValue v) s) ∨
    (∃ cell, t = raiseError (.invalidOperand cell) s ∧
      (i = .adv (.reserved cell) ∨ i = .bxl (.outOfRange cell) ∨ i = .bst (.reserved cell) ∨
        i = .jnz (.outOfRange cell) ∨ i = .out (.reserved cell) ∨ i = .bdv (.reserved cell) ∨
        i = .cdv (.reserved cell))) := by
  cases i with
  | adv op =>
    rcases withOperand_cases h with ⟨v, hv, rfl⟩ | ⟨e, he, rfl⟩
    · exact .inl ⟨op, v, .A, by simp, hv, rfl⟩
    · obtain ⟨cell, rfl, rfl⟩ := resolveCombo_error he
      simp
  | bdv op =>
    rcases withOperand_cases h with ⟨v, hv, rfl⟩ | ⟨e, he, rfl⟩
    · exact .inl ⟨op, v, .B, by simp, hv, rfl⟩
    · obtain ⟨cell, rfl, rfl⟩ := resolveCombo_error he
      simp
  | cdv op =>
    rcases withOperand_cases h with ⟨v, hv, rfl⟩ | ⟨e, he, rfl⟩
    · exact .inl ⟨op, v, .C, by simp, hv, rfl⟩
    · obtain ⟨cell, rfl, rfl⟩ := resolveCombo_error he
      simp
  | bst op =>
    rcases withOperand_cases h with ⟨v, hv, rfl⟩ | ⟨e, he, rfl⟩
    · exact .inr (.inr (.inl ⟨op, v, rfl, hv, rfl⟩))
    · obtain ⟨cell, rfl, rfl⟩ := resolveCombo_error he
      simp
  | out op =>
    rcases withOperand_cases h with ⟨v, hv, rfl⟩ | ⟨e, he, rfl⟩
    · exact .inr (.inr (.inr (.inr (.inr (.inr (.inl ⟨op, v, rfl, hv, rfl⟩))))))
    · obtain ⟨cell, rfl, rfl⟩ := resolveCombo_error he
      simp
  | bxl op =>
    rcases withOperand_cases h with ⟨v, hv, rfl⟩ | ⟨e, he, rfl⟩
    · obtain ⟨n, rfl, rfl⟩ := resolveLiteral_value hv
      exact .inr (.inl ⟨n, rfl, rfl⟩)
    · obtain ⟨cell, rfl, rfl⟩ := resolveLiteral_error he
      simp
  | jnz op =>
    rcases withOperand_cases h with ⟨v, hv, rfl⟩ | ⟨e, he, rfl⟩
    · obtain ⟨n, rfl, rfl⟩ := resolveLiteral_value hv
      by_cases hA : s.regA = 0
      · exact .inr (.inr (.inr (.inr (.inl ⟨n, rfl, hA, by simp [hA]⟩))))
      · exact .inr (.inr (.inr (.inl ⟨n, rfl, hA, by simp [hA]⟩)))
    · obtain ⟨cell, rfl, rfl⟩ := resolveLiteral_error he
      simp
  | bxc cell =>
    simp only [exec, execBxc, Host.Outcome.next.injEq] at h
    exact .inr (.inr (.inr (.inr (.inr (.inl ⟨cell, rfl, h.symm⟩)))))

/-- At the end the two cells do not both exist, and conversely. -/
theorem atEnd_eq_false_iff (s : State) : atEnd s = false ↔ s.pc + 1 < s.prog.length := by simp [atEnd]

theorem atEnd_eq_true_iff (s : State) : atEnd s = true ↔ s.prog.length ≤ s.pc + 1 := by simp [atEnd]

/-- What a Running instance that is not at the end does before the effect: it decodes the pair at pc. -/
theorem fetchAndDecode_eq {s : State} (h : s.pc + 1 < s.prog.length) :
    fetchAndDecode s = dispatchPair s.prog[s.pc] s.prog[s.pc + 1] (advancePc s) := by
  simp [fetchAndDecode, memRead_pair _ _ h]

/-- Everything a Step can do, with its conditions. -/
theorem step_cases {s t : State} (h : step s = .next t) :
    (s.status ≠ .running ∧ t = s) ∨
    (s.status = .running ∧ s.prog.length ≤ s.pc + 1 ∧ t = halt s) ∨
    (s.status = .running ∧ ∃ opc opd, s.prog[s.pc]? = some opc ∧ s.prog[s.pc + 1]? = some opd ∧
      ((8 ≤ opc ∧ t = raiseError (.invalidOpcode opc) (advancePc s)) ∨
        ∃ i, decode opc opd = .instr i ∧ exec i (advancePc s) = .next t)) := by
  cases hs : s.status with
  | halted => exact .inl ⟨by simp, by simpa [step, cycle, hs] using h.symm⟩
  | faulted => exact .inl ⟨by simp, by simpa [step, cycle, hs] using h.symm⟩
  | running =>
    by_cases hend : s.pc + 1 < s.prog.length
    · refine .inr (.inr ⟨rfl, s.prog[s.pc], s.prog[s.pc + 1], by simp, by simp, ?_⟩)
      have hcycle : cycle s = dispatchPair s.prog[s.pc] s.prog[s.pc + 1] (advancePc s) := by
        simp [cycle, hs, (atEnd_eq_false_iff s).2 hend, fetchAndDecode_eq hend]
      by_cases hopc : 8 ≤ s.prog[s.pc]
      · exact .inl ⟨hopc, by simpa [step, hcycle, dispatchPair, decode_rejected hopc] using h.symm⟩
      · refine .inr ?_
        simp only [step, hcycle, dispatchPair] at h
        cases hd : decode s.prog[s.pc] s.prog[s.pc + 1] with
        | instr i => exact ⟨i, rfl, by simpa [hd] using h⟩
        | rejected e =>
          unfold decode at hd
          split at hd <;> first | exact Decoded.noConfusion hd | (simp_all; omega)
    · have hend : s.prog.length ≤ s.pc + 1 := by omega
      exact .inr (.inl ⟨rfl, hend, by
        simpa [step, cycle, hs, (atEnd_eq_true_iff s).2 hend] using h.symm⟩)

end Sys2Proof.Machine
end

