-- ==== Sys2Proof/Laws/Driver.lean ====
section
/-! SUPPORT. What the driver's checks and operations can answer. -/
namespace Sys2Proof.Machine

theorem checkReg_ok {p : Params} {v : Int} {n : Nat} (h : checkReg p v = .ok n) :
    v = Int.ofNat n ∧ fitsWidth p.regW n = true := by
  cases v with
  | negSucc k => simp [checkReg] at h
  | ofNat k =>
    simp only [checkReg] at h
    split at h
    · next hf => cases h; exact ⟨rfl, hf⟩
    · cases h

theorem checkCells_ok {p : Params} {cells : List Int} {m : Memory} (h : checkCells p cells = .ok m) :
    cells = m.map Int.ofNat ∧ ∀ c ∈ m, c < 2 ^ p.cellW := by
  induction cells generalizing m with
  | nil => cases h; simp
  | cons v rest ih =>
    cases v with
    | negSucc k => simp [checkCells] at h
    | ofNat k =>
      simp only [checkCells] at h
      split at h
      · next hf =>
        cases hr : checkCells p rest with
        | ok cells => simp only [hr, Checked.ok.injEq] at h; subst h; have := ih hr; simp_all [cellFits]
        | bad r => simp [hr] at h
      · cases h

/-- A checked Program is the supplied sequence, in the store's form (R126). -/
theorem checkProgram_ok {p : Params} {cells : List Int} {m : Memory} (h : checkProgram p cells = .ok m) :
    cells = m.map Int.ofNat ∧ m.wf p = true := by
  unfold checkProgram at h
  split at h
  · next hl =>
    obtain ⟨rfl, hc⟩ := checkCells_ok h
    exact ⟨rfl, (memory_wf_iff p m).2 ⟨hc, by simpa using hl⟩⟩
  · cases h

theorem setReg_cases {r : Reg} {v : Int} {s t : State} (h : setReg r v s = .next t) :
    ∃ n : Nat, v = Int.ofNat n ∧ fitsWidth s.params.regW n = true ∧ t = writeReg r n s := by
  unfold setReg at h
  split at h
  · next n hn => cases h; exact ⟨n, (checkReg_ok hn).1, (checkReg_ok hn).2, rfl⟩
  · cases h

/-- Everything an operation on a live instance can do. -/
theorem perform_cases {op : DriverOp} {s t : State} (h : perform op s = .next t) :
    (op = .step ∧ step s = .next t) ∨ (op = .reset ∧ t = resetInstance s) ∨
    (∃ r v n, op = .setReg r v ∧ v = Int.ofNat n ∧ fitsWidth s.params.regW n = true ∧ t = writeReg r n s) ∨
    ((∃ r, op = .getReg r) ∨ op = .getIP ∨ op = .getStatus ∨ op = .getCause ∨ op = .getMalformed ∨
      op = .readSink) ∧ t = s ∨
    (∃ contents, op = .swapSink contents ∧ t = { s with sink := contents }) := by
  cases op with
  | step => exact .inl ⟨rfl, h⟩
  | reset => exact .inr (.inl ⟨rfl, by simpa [perform] using h.symm⟩)
  | setReg r v =>
    obtain ⟨n, hn, hf, rfl⟩ := setReg_cases h
    exact .inr (.inr (.inl ⟨r, v, n, rfl, hn, hf, rfl⟩))
  | getReg r => exact .inr (.inr (.inr (.inl ⟨.inl ⟨r, rfl⟩, by simpa [perform] using h.symm⟩)))
  | getIP => exact .inr (.inr (.inr (.inl ⟨by simp, by simpa [perform] using h.symm⟩)))
  | getStatus => exact .inr (.inr (.inr (.inl ⟨by simp, by simpa [perform] using h.symm⟩)))
  | getCause => exact .inr (.inr (.inr (.inl ⟨by simp, by simpa [perform] using h.symm⟩)))
  | getMalformed => exact .inr (.inr (.inr (.inl ⟨by simp, by simpa [perform] using h.symm⟩)))
  | readSink => exact .inr (.inr (.inr (.inl ⟨by simp, by simpa [perform] using h.symm⟩)))
  | swapSink contents => exact .inr (.inr (.inr (.inr ⟨contents, rfl, by simpa [perform] using h.symm⟩)))

/-- A composite's operation acts on one existing instance. -/
theorem performAt_cases {k : Nat} {op : DriverOp} {sys sys' : System} (h : performAt k op sys = .next sys') :
    ∃ s s', sys[k]? = some s ∧ perform op s = .next s' ∧ sys' = sys.set k s' := by
  unfold performAt at h
  split at h
  · cases h
  · next s hs =>
    cases hp : perform op s with
    | next s' => simp only [hp, Host.Outcome.next.injEq] at h; exact ⟨s, s', hs, hp, h.symm⟩
    | fault f => simp [hp] at h
    | refused r => simp [hp] at h

end Sys2Proof.Machine
end

