-- ==== Sys2Proof/Laws/PerInstr.lean ====
section
/-! SUPPORT. Facts about every instruction as syntax, one lemma per constructor: the cells of a well-formed
instruction are cells of that width, and its opcode is one of the eight (R51, R57). -/
namespace Sys2Proof.Laws.EncodeFits

/-- A well-formed instruction of a core with cells of at least 3 bits has an opcode of 0 to 7 and two cells that fit. -/
def Statement (i : Instr) : Prop :=
  ∀ cellW, 3 ≤ cellW → i.wellFormed cellW = true →
    (encode i).1 < 8 ∧ (encode i).1 < 2 ^ cellW ∧ (encode i).2 < 2 ^ cellW

theorem eight_le_two_pow {cellW : Nat} (h : 3 ≤ cellW) : 8 ≤ 2 ^ cellW :=
  Nat.pow_le_pow_right (n := 2) (by decide) h

theorem encodeCombo_lt {op : Combo} {cellW : Nat} (h : 3 ≤ cellW) (hw : op.wellFormed cellW = true) :
    encodeCombo op < 2 ^ cellW := by
  have h8 := eight_le_two_pow h
  cases op with
  | num n => simp only [encodeCombo]; omega
  | reg r => cases r <;> simp only [encodeCombo, Reg.comboCell] <;> omega
  | reserved cell =>
    simp only [Combo.wellFormed, cellFits, Bool.and_eq_true, decide_eq_true_eq] at hw
    exact hw.2

theorem encodeLiteral_lt {op : Literal} {cellW : Nat} (h : 3 ≤ cellW) (hw : op.wellFormed cellW = true) :
    encodeLiteral op < 2 ^ cellW := by
  have h8 := eight_le_two_pow h
  cases op with
  | num n => simp only [encodeLiteral]; omega
  | outOfRange cell =>
    simp only [Literal.wellFormed, cellFits, Bool.and_eq_true, decide_eq_true_eq] at hw
    exact hw.2

theorem adv (op : Combo) : Statement (.adv op) := fun w h hw =>
  ⟨by simp [encode], by have := eight_le_two_pow h; simp only [encode]; omega, encodeCombo_lt h hw⟩

theorem bxl (op : Literal) : Statement (.bxl op) := fun w h hw =>
  ⟨by simp [encode], by have := eight_le_two_pow h; simp only [encode]; omega, encodeLiteral_lt h hw⟩

theorem bst (op : Combo) : Statement (.bst op) := fun w h hw =>
  ⟨by simp [encode], by have := eight_le_two_pow h; simp only [encode]; omega, encodeCombo_lt h hw⟩

theorem jnz (op : Literal) : Statement (.jnz op) := fun w h hw =>
  ⟨by simp [encode], by have := eight_le_two_pow h; simp only [encode]; omega, encodeLiteral_lt h hw⟩

theorem bxc (cell : Nat) : Statement (.bxc cell) := fun w h hw =>
  ⟨by simp [encode], by have := eight_le_two_pow h; simp only [encode]; omega,
    by simpa [Instr.wellFormed, cellFits, encode] using hw⟩

theorem out (op : Combo) : Statement (.out op) := fun w h hw =>
  ⟨by simp [encode], by have := eight_le_two_pow h; simp only [encode]; omega, encodeCombo_lt h hw⟩

theorem bdv (op : Combo) : Statement (.bdv op) := fun w h hw =>
  ⟨by simp [encode], by have := eight_le_two_pow h; simp only [encode]; omega, encodeCombo_lt h hw⟩

theorem cdv (op : Combo) : Statement (.cdv op) := fun w h hw =>
  ⟨by simp [encode], by have := eight_le_two_pow h; simp only [encode]; omega, encodeCombo_lt h hw⟩

end Sys2Proof.Laws.EncodeFits
end

