-- ==== Sys2Proof/Tests/Slice0.lean ====
section
/-! SUPPORT. The model's own tests, each a fact on fixed values whose expected result is the spec's (its rule or its
vector in spec/95_test_vectors.md is named), and for every statement with hypotheses a witness that meets them. -/
namespace Sys2Proof.Tests.Slice0

open Sys2Proof.Machine

/-! ### Helpers -/

/-- A fresh Running instance of the reference core, with cells of the given width. -/
def inst (cellW : Nat) (prog : List Nat) (a b c : Nat) : State :=
  { State.reset with params := { Params.reference with cellW := cellW }, prog := prog, regA := a, regB := b, regC := c }

/-- The next state, if the outcome is one. -/
def nextOf : Host.Outcome State Fault Refusal → Option State
  | .next s => some s
  | _ => none

/-- What a test looks at: A, B, C, pc, STATUS, CAUSE and the sink. -/
structure View where
  a      : Nat
  b      : Nat
  c      : Nat
  pc     : Nat
  status : Status
  cause  : Cause
  sink   : List OutVal
  deriving DecidableEq, Repr

/-- The view of a next state. -/
def view (o : Host.Outcome State Fault Refusal) : Option View :=
  (nextOf o).map fun s => ⟨s.regA, s.regB, s.regC, s.pc, s.status, s.cause, s.sink⟩

/-- The refusal, if the outcome is one. -/
def refusalOf : Host.Outcome State Fault Refusal → Option Refusal
  | .refused r => some r
  | _ => none

/-- A core with every parameter finite: registers of 4 bits, cells of 3 bits, at most 6 cells. -/
def small : Params := { regW := .finite 4, cellW := 3, lenMax := .finite 6 }

/-! ### WellFormed refuses an ill-formed term, once per check -/

theorem test_wf_reserved_too_small : (Instr.adv (.reserved 6)).wellFormed 3 = false := by decide
theorem test_wf_reserved_too_wide : (Instr.out (.reserved 8)).wellFormed 3 = false := by decide
theorem test_wf_literal_too_small : (Instr.bxl (.outOfRange 7)).wellFormed 4 = false := by decide
theorem test_wf_literal_too_wide : (Instr.jnz (.outOfRange 16)).wellFormed 4 = false := by decide
theorem test_wf_ignored_too_wide : (Instr.bxc 8).wellFormed 3 = false := by decide
theorem test_wf_accepts : (Instr.cdv (.reserved 7)).wellFormed 3 = true ∧ (Instr.bxc 15).wellFormed 4 = true := by decide

/-! ### Decoding: the listing words of spec/95_test_vectors.md P1 to P3 and section 2, bit by bit -/

theorem test_decode_adv : decodeTableWord 8 0b000001 = some (.adv (.num 1)) := by decide
theorem test_decode_bxl : decodeTableWord 8 0b001101 = some (.bxl (.num 5)) := by decide
theorem test_decode_bst : decodeTableWord 8 0b010100 = some (.bst (.reg .A)) := by decide
theorem test_decode_jnz : decodeTableWord 8 0b011111 = some (.jnz (.num 7)) := by decide
theorem test_decode_bxc : decodeTableWord 8 0b100000 = some (.bxc 0) := by decide
theorem test_decode_out : decodeTableWord 8 0b101101 = some (.out (.reg .B)) := by decide
theorem test_decode_bdv : decodeTableWord 8 0b110110 = some (.bdv (.reg .C)) := by decide
theorem test_decode_cdv : decodeTableWord 8 0b111101 = some (.cdv (.reg .B)) := by decide
/-- The five raising words of R60 are instructions of their rows with the reserved operand. -/
theorem test_decode_reserved :
    [7, 23, 47, 55, 63].map (decodeTableWord 8) =
      [some (.adv (.reserved 7)), some (.bst (.reserved 7)), some (.out (.reserved 7)), some (.bdv (.reserved 7)),
        some (.cdv (.reserved 7))] := by decide
/-- An opcode cell of 8 is rejected (R58); 7 is CDV. -/
theorem test_decode_opcode_edge :
    decode 8 0 = .rejected (.invalidOpcode 8) ∧ decode 7 0 = .instr (.cdv (.num 0)) := by decide
/-- The word notation of R51. -/
theorem test_instr_word : instrWord 3 5 4 = 0b101100 ∧ encode (.out (.reg .A)) = (5, 4) := by decide
/-- The next Step after reset runs the placed word, here ADV A. -/
theorem test_fetch_word :
    view (step (State.reset.withFetchWord 8 0b000100)) = some ⟨0, 0, 0, 2, .running, .none, []⟩ := by decide

/-! ### One Step per instruction -/

/-- DV12: a shift amount of 70 on a value above 64 bits. -/
theorem test_adv_wide : view (step (inst 3 [0, 5] (2 ^ 70 + 5) 70 1)) = some ⟨1, 70, 1, 2, .running, .none, []⟩ := by decide
/-- DV18: the shift amount is not reduced, and 2^val is not formed. -/
theorem test_adv_huge_amount :
    view (step (inst 3 [0, 5] (2 ^ 64 - 1) (2 ^ 64 - 1) 0)) = some ⟨0, 2 ^ 64 - 1, 0, 2, .running, .none, []⟩ := by decide
/-- DV9: the old B is the shift amount. -/
theorem test_bdv_old_b : view (step (inst 3 [6, 5] 1000 3 99)) = some ⟨1000, 125, 99, 2, .running, .none, []⟩ := by decide
/-- DV11: an amount of 64 is not taken modulo 64. -/
theorem test_bdv_unmasked : view (step (inst 3 [6, 5] 1000 64 99)) = some ⟨1000, 0, 99, 2, .running, .none, []⟩ := by decide
/-- DV13: the old C is the shift amount. -/
theorem test_cdv_old_c : view (step (inst 3 [7, 6] 1000 99 4)) = some ⟨1000, 99, 62, 2, .running, .none, []⟩ := by decide
/-- EX5: CDV with the reserved operand. -/
theorem test_cdv_reserved : view (step (inst 3 [7, 7] 9 9 9)) = some ⟨9, 9, 9, 2, .faulted, .invalidOperand, []⟩ := by decide
/-- BW5: literal four, not register A. -/
theorem test_bxl_literal_four : view (step (inst 3 [1, 4] 1 29 3)) = some ⟨1, 25, 3, 2, .running, .none, []⟩ := by decide
/-- BW11: upper bits kept, literal seven legal. -/
theorem test_bxl_upper_bits :
    view (step (inst 3 [1, 7] 0 (2 ^ 64) 0)) = some ⟨0, 2 ^ 64 + 7, 0, 2, .running, .none, []⟩ := by decide
/-- S1, the source's vector. -/
theorem test_bst_source : view (step (inst 3 [2, 6] 0 0 9)) = some ⟨0, 1, 9, 2, .running, .none, []⟩ := by decide
/-- EX2: BST with the reserved operand leaves B. -/
theorem test_bst_reserved : view (step (inst 3 [2, 7] 1 2 3)) = some ⟨1, 2, 3, 2, .faulted, .invalidOperand, []⟩ := by decide
/-- JN7: A = 2^70 is not zero; JN6: an odd target. -/
theorem test_jnz_taken :
    view (step (inst 3 [3, 2, 5, 1, 5, 2, 5, 3] (2 ^ 70) 0 0)) = some ⟨2 ^ 70, 0, 0, 2, .running, .none, []⟩ ∧
    view (step (inst 3 [3, 1, 5, 1, 5, 2, 5, 3] 5 0 0)) = some ⟨5, 0, 0, 1, .running, .none, []⟩ := by decide
/-- EX11: with CELL_W = 4, an operand of 8 raises though the branch would not be taken. -/
theorem test_jnz_operand_eight : view (step (inst 4 [3, 8] 0 0 0)) = some ⟨0, 0, 0, 2, .faulted, .invalidOperand, []⟩ := by decide
/-- S5 and BW21: the operand cell does not matter. -/
theorem test_bxc_source :
    view (step (inst 3 [4, 0] 0 2024 43690)) = some ⟨0, 44354, 43690, 2, .running, .none, []⟩ ∧
    view (step (inst 3 [4, 7] 1 2024 43690)) = some ⟨1, 44354, 43690, 2, .running, .none, []⟩ := by decide
/-- The contrast row of section 2.6: with CELL_W = 4, cells 4,9. -/
theorem test_bxc_operand_nine : view (step (inst 4 [4, 9] 0 1 2)) = some ⟨0, 3, 2, 2, .running, .none, []⟩ := by decide
/-- OU3 and OU6. -/
theorem test_out_low_bits :
    view (step (inst 3 [5, 4] 10 2 3)) = some ⟨10, 2, 3, 2, .running, .none, [2]⟩ ∧
    view (step (inst 3 [5, 6] 0 0 (2 ^ 64 + 6))) = some ⟨0, 0, 2 ^ 64 + 6, 2, .running, .none, [6]⟩ := by decide
/-- EX3: nothing is emitted. -/
theorem test_out_reserved : view (step (inst 3 [5, 7] 1 2 3)) = some ⟨1, 2, 3, 2, .faulted, .invalidOperand, []⟩ := by decide

/-! ### The Step cycle and the driver -/

/-- EX7: the opcode is checked before the operand. -/
theorem test_invalid_opcode_first : view (step (inst 4 [9, 7] 0 0 0)) = some ⟨0, 0, 0, 2, .faulted, .invalidOpcode, []⟩ := by decide
/-- ST1 and ST2: no cell, or one. -/
theorem test_halts_at_once :
    view (step (inst 3 [] 5 6 7)) = some ⟨5, 6, 7, 0, .halted, .none, []⟩ ∧
    view (step (inst 3 [5] 0 0 0)) = some ⟨0, 0, 0, 0, .halted, .none, []⟩ := by decide
/-- P4, Start A = 1, Step 2: an odd pc re-reads cells 3 and 4. -/
theorem test_odd_pc :
    view (step { inst 3 [3, 3, 5, 1, 5, 2] 1 0 0 with pc := 3 }) = some ⟨1, 5, 0, 5, .running, .none, []⟩ := by decide
/-- P5: Reset leaves Faulted and keeps registers and sink. -/
theorem test_reset_from_faulted :
    view (perform .reset { inst 3 [5, 4, 2, 7, 5, 5] 10 3 0 with pc := 4, status := .faulted, cause := .invalidOperand, sink := [2] })
      = some ⟨10, 3, 0, 0, .running, .none, [2]⟩ := by decide
/-- R126 on each check. -/
theorem test_construct_refuses :
    refusalOf (construct small [0, 1] (-1) 0 0 []) = some .negativeRegister ∧
    refusalOf (construct small [0, 1] 0 16 0 []) = some .registerTooWide ∧
    refusalOf (construct small [0, -1] 0 0 0 []) = some .negativeCell ∧
    refusalOf (construct small [0, 8] 0 0 0 []) = some .cellTooWide ∧
    refusalOf (construct small [0, 0, 0, 0, 0, 0, 0] 0 0 0 []) = some .programTooLong ∧
    refusalOf (construct { small with cellW := 2 } [] 0 0 0 []) = some .paramsOutOfRange := by decide
/-- IP_W (R8): 3 bits for LEN_MAX up to 7, 4 bits for 8; R23 on an odd Program. -/
theorem test_ip_width_and_malformed :
    ipWidth small = .finite 3 ∧ ipWidth { small with lenMax := .finite 8 } = .finite 4 ∧
    malformed (inst 3 [5, 0, 5] 0 0 0) = 1 := by decide
/-- Listing lines of P1 and P3, and a pair that raises (R63). -/
theorem test_listing :
    listingLine 4 3 0 = "4: 3 0  JNZ 0" ∧ listingLine 8 4 0 = "8: 4 0  BXC" ∧ listingLine 2 5 4 = "2: 5 4  OUT A" ∧
    listingLine 2 2 7 = "2: 2 7  .cells 2, 7" := by decide
/-- P1 assembles to the source's S3 Program. -/
theorem test_assemble :
    assemble [.instr .ADV (.digit 1), .instr .OUT (.letter .A), .instr .JNZ (.digit 0)] = some [0, 1, 5, 4, 3, 0] := by decide

/-! ### Witnesses: for every statement with hypotheses, values that meet them -/

theorem witness_OpcodeAloneSelectsInstruction :
    decode 0 7 = .instr (.adv (.reserved 7)) ∧ decode 3 8 = .instr (.jnz (.outOfRange 8)) ∧ decode 4 8 = .instr (.bxc 8) ∧
    decode 8 7 = .rejected (.invalidOpcode 8) := by decide

theorem witness_EncodeThenDecode :
    (Instr.adv (.reserved 7)).wellFormed 3 = true ∧ (Instr.jnz (.outOfRange 8)).wellFormed 4 = true ∧
    (Instr.bxl (.num 7)).wellFormed 3 = true ∧ (Instr.bxc 7).wellFormed 3 = true := by decide

theorem witness_DecodeThenEncode : decode 7 7 = .instr (.cdv (.reserved 7)) ∧ decode 4 9 = .instr (.bxc 9) := by decide

theorem witness_DecodedInstrIsWellFormed : 7 < 2 ^ 3 ∧ decode 5 7 = .instr (.out (.reserved 7)) := by decide

/-- One pair per clause, at the edges: opcode 8; BXC with 8; operand 8; literal 7; combo 7; combo 6. -/
theorem witness_EveryPairRunsOrRaises :
    (inst 4 [8, 7] 0 0 0).status = .running ∧ (inst 4 [8, 7] 0 0 0).prog.cell 0 = some 8 ∧
    (inst 4 [8, 7] 0 0 0).prog.cell 1 = some 7 ∧
    view (step (inst 4 [8, 7] 0 0 0)) = some ⟨0, 0, 0, 2, .faulted, .invalidOpcode, []⟩ ∧
    view (step (inst 4 [4, 8] 0 0 0)) = some ⟨0, 0, 0, 2, .running, .none, []⟩ ∧
    view (step (inst 4 [1, 8] 0 1 0)) = some ⟨0, 1, 0, 2, .faulted, .invalidOperand, []⟩ ∧
    view (step (inst 4 [3, 7] 1 0 0)) = some ⟨1, 0, 0, 7, .running, .none, []⟩ ∧
    view (step (inst 3 [0, 7] 9 9 9)) = some ⟨9, 9, 9, 2, .faulted, .invalidOperand, []⟩ ∧
    view (step (inst 3 [0, 6] 9 9 1)) = some ⟨4, 9, 1, 2, .running, .none, []⟩ := by decide

theorem witness_FiveOfSixtyFourWordsRaise :
    63 < 64 ∧ 63 ∈ [7, 23, 47, 55, 63] ∧ 62 ∉ [7, 23, 47, 55, 63] ∧
    view (step (State.reset.withFetchWord 8 63)) = some ⟨0, 0, 0, 2, .faulted, .invalidOperand, []⟩ ∧
    view (step (State.reset.withFetchWord 8 62)) = some ⟨0, 0, 0, 2, .running, .none, []⟩ := by decide

theorem witness_ComboMultiplexer : resolveCombo (decodeCombo 7) (inst 3 [] 1 2 3) = .error (.invalidOperand 7) := by decide

theorem witness_LiteralIsRawValue :
    resolveLiteral (decodeLiteral 7) = .value 7 ∧ resolveLiteral (decodeLiteral 8) = .error (.invalidOperand 8) := by decide

theorem witness_ShiftIsFloorDivision :
    resolveCombo (.reg .C) (inst 3 [] 13 0 3) = .value 3 ∧ 7 < 2 ^ 3 ∧ shiftDown 7 3 = 0 ∧ shiftDown 8 3 = 1 := by decide

theorem witness_RegisterBBitByBit : 2024 < 2 ^ 16 ∧ 43690 < 2 ^ 16 := by decide

/-- ADV: the last legal operand and the first that raises, in a Running instance with the pair at pc. -/
theorem witness_AdvDividesA :
    (inst 3 [0, 6] 13 0 1).status = .running ∧ (inst 3 [0, 6] 13 0 1).prog.cell 0 = some 0 ∧
    (inst 3 [0, 6] 13 0 1).prog.cell 1 = some 6 ∧ (inst 3 [0, 7] 13 0 1).prog.cell 1 = some 7 := by decide

theorem witness_BdvDividesAIntoB :
    (inst 3 [6, 6] 13 0 1).status = .running ∧ (inst 3 [6, 6] 13 0 1).prog.cell 0 = some 6 ∧
    (inst 3 [6, 6] 13 0 1).prog.cell 1 = some 6 ∧ (inst 3 [6, 7] 13 0 1).prog.cell 1 = some 7 := by decide

theorem witness_CdvDividesAIntoC :
    (inst 3 [7, 6] 13 0 1).status = .running ∧ (inst 3 [7, 6] 13 0 1).prog.cell 0 = some 7 ∧
    (inst 3 [7, 6] 13 0 1).prog.cell 1 = some 6 ∧ (inst 3 [7, 7] 13 0 1).prog.cell 1 = some 7 := by decide

theorem witness_BxlXorsLiteralIntoB :
    (inst 4 [1, 7] 0 1 0).status = .running ∧ (inst 4 [1, 7] 0 1 0).prog.cell 0 = some 1 ∧
    (inst 4 [1, 7] 0 1 0).prog.cell 1 = some 7 ∧ (inst 4 [1, 8] 0 1 0).prog.cell 1 = some 8 ∧
    nextOf (exec (.bxl (decodeLiteral 7)) (inst 4 [1, 7] 0 1 0)) = some (inst 4 [1, 7] 0 6 0) := by decide

theorem witness_BstTakesLowThreeBits :
    (inst 3 [2, 6] 0 1 9).status = .running ∧ (inst 3 [2, 6] 0 1 9).prog.cell 0 = some 2 ∧
    (inst 3 [2, 6] 0 1 9).prog.cell 1 = some 6 ∧ (inst 3 [2, 7] 0 1 9).prog.cell 1 = some 7 := by decide

theorem witness_BxcXorsCIntoB :
    (inst 4 [4, 9] 0 1 2).status = .running ∧ (inst 4 [4, 9] 0 1 2).prog.cell 0 = some 4 ∧
    (inst 4 [4, 9] 0 1 2).prog.cell 1 = some 9 ∧ (inst 4 [4] 0 1 2).prog.cell 0 = some 4 ∧
    (inst 4 [4] 0 1 2).prog.cell 1 = none := by decide

theorem witness_JnzBranchesOnNonzeroA :
    (inst 4 [3, 7] 1 0 0).status = .running ∧ (inst 4 [3, 7] 1 0 0).prog.cell 0 = some 3 ∧
    (inst 4 [3, 7] 1 0 0).prog.cell 1 = some 7 ∧ (inst 4 [3, 7] 1 0 0).regA ≠ 0 ∧ (inst 4 [3, 7] 0 0 0).regA = 0 ∧
    (inst 4 [3, 8] 0 0 0).prog.cell 1 = some 8 := by decide

theorem witness_OutEmitsLowThreeBits :
    (inst 3 [5, 6] 0 0 8).status = .running ∧ (inst 3 [5, 6] 0 0 8).prog.cell 0 = some 5 ∧
    (inst 3 [5, 6] 0 0 8).prog.cell 1 = some 6 ∧ (inst 3 [5, 7] 0 0 8).prog.cell 1 = some 7 := by decide

/-- At an odd pc too: cells 1 and 2 of [3,1,5,1] are the pair 1,5. -/
theorem witness_StepRunsDecodedInstr :
    ({ inst 4 [3, 1, 5, 1] 1 0 0 with pc := 1 } : State).status = .running ∧
    (inst 4 [3, 1, 5, 1] 1 0 0).prog.cell 1 = some 1 ∧ (inst 4 [3, 1, 5, 1] 1 0 0).prog.cell 2 = some 5 ∧
    decode 1 5 = .instr (.bxl (.num 5)) ∧ (inst 4 [8, 0] 0 0 0).prog.cell 0 = some 8 := by decide

/-- A faulted instance: [0,7] after its one Step (EX1). -/
def faulted : State := { inst 3 [0, 7] 9 9 9 with pc := 2, status := .faulted, cause := .invalidOperand }

theorem witness_StoppedStepsChangeNothing :
    faulted.status ≠ .running ∧ (halt (inst 3 [] 0 0 0)).status ≠ .running := by decide

/-- The last cell, and past the end. -/
theorem witness_AtEndStepOnlyHalts :
    (inst 3 [5] 0 0 0).status = .running ∧ ¬ (inst 3 [5] 0 0 0).pc + 1 < (inst 3 [5] 0 0 0).prog.length ∧
    ¬ (setPc 7 (inst 3 [3, 7] 1 0 0)).pc + 1 < (setPc 7 (inst 3 [3, 7] 1 0 0)).prog.length := by decide

theorem witness_OpcodeAboveSevenRaises :
    (inst 4 [8, 7] 0 0 0).status = .running ∧ (inst 4 [8, 7] 0 0 0).prog.cell 0 = some 8 ∧
    (inst 4 [8, 7] 0 0 0).prog.cell 1 = some 7 ∧ 7 < 8 ∧ (inst 3 [7, 7] 0 0 0).params.cellW = 3 ∧
    (inst 3 [7, 7] 0 0 0).prog.wf (inst 3 [7, 7] 0 0 0).params = true ∧
    (nextOf (step (inst 3 [7, 7] 0 0 0))).isSome = true ∧ (inst 3 [7, 7] 0 0 0).cause ≠ .invalidOpcode := by decide

theorem witness_FaultsArePrecise :
    (inst 3 [0, 7] 9 9 9).status = .running ∧ nextOf (step (inst 3 [0, 7] 9 9 9)) = some faulted ∧
    faulted.status = .faulted := by decide

/-- A next state for each operation kind: a Step that runs, raises, halts and is a no-op; Reset; SetReg. -/
theorem witness_StatusTransitions :
    view (perform .step (inst 3 [1, 0] 0 9 0)) = some ⟨0, 9, 0, 2, .running, .none, []⟩ ∧
    nextOf (perform .step (inst 3 [0, 7] 9 9 9)) = some faulted ∧
    nextOf (perform .step (inst 3 [] 0 0 0)) = some (halt (inst 3 [] 0 0 0)) ∧
    nextOf (perform .step faulted) = some faulted ∧
    nextOf (perform .reset faulted) = some (inst 3 [0, 7] 9 9 9) ∧
    nextOf (perform (.setReg .A 5) faulted) = some { faulted with regA := 5 } := by decide

theorem witness_PcChangesOnlyAsStated :
    view (step (inst 3 [3, 0] 1 0 0)) = some ⟨1, 0, 0, 0, .running, .none, []⟩ ∧
    view (step (inst 3 [3, 7] 0 0 0)) = some ⟨0, 0, 0, 2, .running, .none, []⟩ ∧
    view (step (inst 4 [3, 8] 1 0 0)) = some ⟨1, 0, 0, 2, .faulted, .invalidOperand, []⟩ ∧
    nextOf (step faulted) = some faulted ∧
    (nextOf (exec (.jnz (.num 7)) (inst 3 [3, 7] 1 0 0))).map State.pc = some 7 ∧ (inst 3 [3, 7] 1 0 0).pc = 0 := by decide

theorem witness_ProgramNeverChanges :
    (nextOf (exec (.bxc 7) (inst 3 [4, 7] 0 1 2))).isSome = true ∧
    (nextOf (performAll [.step, .setReg .A 3, .reset, .swapSink [], .getIP] (inst 3 [0, 7] 9 9 9))).isSome = true := by decide

theorem witness_OneEmissionPerExecutedOut :
    view (step (inst 3 [5, 6] 0 0 8)) = some ⟨0, 0, 8, 2, .running, .none, [0]⟩ ∧
    view (step (inst 3 [5, 7] 0 0 8)) = some ⟨0, 0, 8, 2, .faulted, .invalidOperand, []⟩ ∧
    (inst 3 [5, 6] 0 0 8).prog.cell 0 = some 5 ∧ (inst 3 [5, 6] 0 0 8).prog.cell 1 = some 6 ∧
    nextOf (perform (.getReg .C) faulted) = some faulted := by decide

theorem witness_WhoWritesWhichRegister :
    (nextOf (exec (.adv (.num 1)) (inst 3 [] 8 1 2))).map State.regA = some 4 ∧
    (nextOf (exec (.bdv (.num 0)) (inst 3 [] 8 1 2))).map State.regB = some 8 ∧
    (nextOf (exec (.cdv (.num 3)) (inst 3 [] 8 1 2))).map State.regC = some 1 := by decide

theorem witness_UnreadRegisterDoesNotMatter :
    Reg.C ∉ instrReads (.bdv (.reg .B)) ∧ (nextOf (exec (.bdv (.reg .B)) (inst 3 [] 8 1 2))).map State.regB = some 4 ∧
    Reg.B ∉ instrReads (.bst (.reg .C)) ∧ instrWrites (.bst (.reg .C)) = some .B ∧
    (nextOf (exec (.bst (.reg .C)) (inst 3 [] 8 1 9))).map State.status = some .running := by decide

theorem witness_SinkContentsNeverMatter :
    view (run 2 (inst 3 [5, 4] 3 0 0)) = some ⟨3, 0, 0, 2, .halted, .none, [3]⟩ := by decide

/-- The invariant holds of a faulted instance, whose next Step is a no-op, and of a Running one about to fault. -/
theorem inv_faulted : Inv faulted :=
  { paramsInRange := by decide, storeWf := by decide, registersFit := fun r => by cases r <;> decide,
    pcBounded := by decide, haltedAtEnd := by decide, causeIffFaulted := by decide,
    faultedPair := fun _ => ⟨0, 7, by decide, by decide, by decide, by decide⟩ }

theorem inv_running : Inv (inst 3 [0, 7] 9 9 9) :=
  { paramsInRange := by decide, storeWf := by decide, registersFit := fun r => by cases r <;> decide,
    pcBounded := by decide, haltedAtEnd := by decide, causeIffFaulted := by decide,
    faultedPair := fun h => absurd h (by decide) }

theorem witness_StepKeepsInvariant : ∃ s t, Inv s ∧ s.status = .running ∧ step s = .next t :=
  ⟨inst 3 [0, 7] 9 9 9, faulted, inv_running, rfl, rfl⟩

theorem witness_ReachableInstancesKeepInvariant :
    (∃ s, construct small [3, 7, 5, 0, 0] 15 0 3 [] = .next s) ∧
    ∃ s t, Inv s ∧ performAll [.reset, .step, .setReg .C 7] s = .next t :=
  ⟨⟨_, rfl⟩, faulted, _, inv_faulted, rfl⟩

theorem witness_RegistersNeverGrowWider :
    3 ≤ 3 ∧ (inst 3 [1, 7] 7 7 7).regA < 2 ^ 3 ∧ (inst 3 [1, 7] 7 7 7).regB < 2 ^ 3 ∧ (inst 3 [1, 7] 7 7 7).regC < 2 ^ 3 ∧
    view (performAll (List.replicate 2 .step) (inst 3 [1, 7] 7 7 7)) = some ⟨7, 0, 7, 2, .halted, .none, []⟩ := by decide

/-- A core with LEN_MAX = 6: IP_W is 3, and a branch to 7 is at the bound. -/
theorem witness_PcAtMostLenOrSeven :
    ∃ s t, construct small [3, 7] 1 0 0 [] = .next s ∧ performAll [.step] s = .next t ∧ t.pc = 7 ∧
      ipWidth t.params = .finite 3 := ⟨_, _, rfl, rfl, rfl, by decide⟩

theorem witness_StatusAndCauseAgree :
    (∃ s t, construct small [0, 7] 1 0 0 [] = .next s ∧ performAll [.step] s = .next t ∧ t.status = .faulted) ∧
    ∃ s t, construct small [5] 1 0 0 [] = .next s ∧ performAll [.step, .step] s = .next t ∧ t.status = .halted :=
  ⟨⟨_, _, rfl, rfl, rfl⟩, ⟨_, _, rfl, rfl, rfl⟩⟩

theorem witness_RunWithZeroAEnds :
    (inst 3 [3, 0, 5] 0 0 0).regA = 0 ∧ (inst 3 [3, 0, 5] 0 0 0).prog.length ≤ (inst 3 [3, 0, 5] 0 0 0).pc + 2 * 2 := by decide

theorem witness_SelfBranchNeverEnds :
    (inst 3 [3, 0] 1 0 0).status = .running ∧ (inst 3 [3, 0] 1 0 0).prog.cell 0 = some 3 ∧
    (inst 3 [3, 0] 1 0 0).prog.cell 1 = some (inst 3 [3, 0] 1 0 0).pc ∧ (inst 3 [3, 0] 1 0 0).regA ≠ 0 := by decide

theorem witness_RunNeverIncreasesA : view (run 1 (inst 3 [0, 1] 2024 0 0)) = some ⟨1012, 0, 0, 2, .running, .none, []⟩ := by decide

/-- Every bound met with equality on the small core: A = 15 in 4 bits, cells of 7, six cells. -/
theorem witness_ConstructLoadsInstance :
    (∀ w, small.regW = .finite w → 3 ≤ w ∧ 15 < 2 ^ w ∧ 0 < 2 ^ w ∧ 0 < 2 ^ w) ∧ 3 ≤ small.cellW ∧
    (∀ x ∈ [7, 7, 7, 7, 7, 7], x < 2 ^ small.cellW) ∧
    ∀ m, small.lenMax = .finite m → [7, 7, 7, 7, 7, 7].length ≤ m :=
  ⟨by rintro w ⟨⟩; decide, by decide, by decide, by rintro m ⟨⟩; decide⟩

theorem witness_ConstructRefusesExactlyBadValues :
    (∀ w, small.regW = .finite w → 3 ≤ w) ∧ 3 ≤ small.cellW ∧ refusalOf (construct small [] 0 0 16 []) = some .registerTooWide ∧
    (nextOf (construct small [7, 7, 7, 7, 7, 7] 0 0 15 [])).isSome = true :=
  ⟨by rintro w ⟨⟩; decide, by decide, by decide, by decide⟩

theorem witness_SetRegWritesOneRegister :
    nextOf (perform (.setReg .B 5) faulted) = some { faulted with regB := 5 } ∧
    refusalOf (perform (.setReg .B (-1)) faulted) = some .negativeRegister ∧
    refusalOf (perform (.setReg .B 16) { faulted with params := small }) = some .registerTooWide ∧
    nextOf (perform (.setReg .B 15) { faulted with params := small }) = some { faulted with params := small, regB := 15 } := by decide

/-- OU4: a zero is emitted, and the driver reads it after what the sink held. -/
theorem witness_DriverReadsAndSwapsSink :
    ({ inst 3 [5, 4] 8 0 0 with sink := [3] } : State).status = .running ∧ (inst 3 [5, 4] 8 0 0).prog.cell 0 = some 5 ∧
    (inst 3 [5, 4] 8 0 0).prog.cell 1 = some 4 ∧ (inst 3 [5, 6] 8 0 0).prog.cell 1 = some 6 ∧
    (nextOf (perform .step { inst 3 [5, 4] 8 0 0 with sink := [3] })).map (reply .readSink) = some (.contents [3, 0]) ∧
    (nextOf (perform (.swapSink []) { faulted with sink := [3] })).map (reply .readSink) = some (.contents []) := by decide

theorem witness_MalformedIsParityOfLength :
    (nextOf (performAll [.step, .reset] (inst 3 [5, 0, 5] 0 0 0))).isSome = true ∧
    (setPc 2 (inst 3 [5, 0, 5] 0 0 0)).status = .running ∧
    (setPc 2 (inst 3 [5, 0, 5] 0 0 0)).pc + 1 = (setPc 2 (inst 3 [5, 0, 5] 0 0 0)).prog.length := by decide

theorem witness_EmptyProgramHaltsAtOnce :
    (nextOf (construct small [] 5 6 7 [])).isSome = true ∧ (nextOf (construct small [5] 5 6 7 [])).isSome = true := by decide

theorem witness_ResetReproducesRun :
    ∃ s t, registersFit s ∧ s.pc = 0 ∧ s.status = .running ∧ s.cause = .none ∧ run 3 s = .next t ∧ t.sink = [5] :=
  ⟨inst 3 [0, 1, 5, 4] 11 0 0, _, fun r => by cases r <;> decide, rfl, rfl, rfl, rfl, by decide⟩

theorem witness_FaultedUntilReset :
    faulted.status = .faulted ∧ DriverOp.reset ∉ [DriverOp.step, .setReg .A 4, .getCause] ∧
    (∀ v, DriverOp.setReg .B v ∉ [DriverOp.step, .setReg .A 4, .getCause]) ∧
    (nextOf (performAll [.step, .setReg .A 4, .getCause] faulted)).isSome = true :=
  ⟨by decide, by decide, by simp, by decide⟩

theorem witness_ControlRegisterCodes : errorRecordedAs .invalidOpcode = some .invalidOpcode := by decide

theorem witness_InstancesAreIndependent :
    ∃ sys₁ sys₂, performAt 0 .step [inst 3 [5, 1] 0 0 0, faulted] = .next sys₁ ∧
      performAt 1 .reset sys₁ = .next sys₂ ∧ (0 : Nat) ≠ 1 := ⟨_, _, rfl, rfl, by decide⟩

/-- The last pair exists; one cell further does not. -/
theorem witness_MemReadGivesCellsInOrder :
    1 + 2 ≤ [5, 4, 3].length ∧ memRead [5, 4, 3] 1 2 = .ok [4, 3] ∧ [5, 4, 3].length < 2 + 2 := ⟨by decide, rfl, by decide⟩

theorem witness_AssemblyRoundTrip :
    assembleLine (.instr .BXC (.digit 7)) = some [4, 7] ∧ assembleLine (.instr .ADV (.digit 4)) = none ∧
    assembleLine (.instr .CDV (.letter .C)) = some [7, 6] := by decide

end Sys2Proof.Tests.Slice0
end

section
/-! SUPPORT. The decoder's answers and the reads of the Program Store (spec/00_scope.md R6, R9): inversion of `decode`,
well-formedness of what it reads, and `memRead` on each side of its bound. -/
namespace Sys2Proof.Machine

/-! ### Decoding (R57, R59) -/

/-- Everything the decoder can read: one row of the opcode map (R57), with the operand its cell stands for. -/
theorem decode_cases {opc opd : Nat} {i : Instr} (h : decode opc opd = .instr i) :
    (opc = 0 ∧ i = .adv (decodeCombo opd)) ∨ (opc = 1 ∧ i = .bxl (decodeLiteral opd)) ∨
    (opc = 2 ∧ i = .bst (decodeCombo opd)) ∨ (opc = 3 ∧ i = .jnz (decodeLiteral opd)) ∨
    (opc = 4 ∧ i = .bxc opd) ∨ (opc = 5 ∧ i = .out (decodeCombo opd)) ∨
    (opc = 6 ∧ i = .bdv (decodeCombo opd)) ∨ (opc = 7 ∧ i = .cdv (decodeCombo opd)) := by
  by_cases hopc : 8 ≤ opc
  · rw [decode_rejected hopc] at h
    cases h
  · interval_cases opc <;> cases h <;> simp

/-- Only the cells without a value become `reserved`, so the term stands for its cell (R54, R55, R59). -/
theorem decodeCombo_wellFormed {cellW opd : Nat} (hfit : opd < 2 ^ cellW) :
    (decodeCombo opd).wellFormed cellW = true := by
  by_cases hopd : 7 ≤ opd
  · simp [decodeCombo_reserved hopd, Combo.wellFormed, cellFits, hopd, hfit]
  · interval_cases opd <;> rfl

/-- Only the cells above 7 become `outOfRange`, so the term stands for its cell (R53, R59). -/
theorem decodeLiteral_wellFormed {cellW opd : Nat} (hfit : opd < 2 ^ cellW) :
    (decodeLiteral opd).wellFormed cellW = true := by
  by_cases hopd : 8 ≤ opd
  · simp [decodeLiteral_outOfRange hopd, Literal.wellFormed, cellFits, hopd, hfit]
  · interval_cases opd <;> rfl

/-- Settles O5: by the row of the opcode map that was read, from the well-formedness of the decoded operand. -/
theorem decodedInstrIsWellFormed : Obligations.DecodedInstrIsWellFormed := by
  intro cellW opc opd i hfit hdec
  have hcombo := decodeCombo_wellFormed hfit
  have hliteral := decodeLiteral_wellFormed hfit
  rcases decode_cases hdec with
    ⟨-, rfl⟩ | ⟨-, rfl⟩ | ⟨-, rfl⟩ | ⟨-, rfl⟩ | ⟨-, rfl⟩ | ⟨-, rfl⟩ | ⟨-, rfl⟩ | ⟨-, rfl⟩
  · exact hcombo
  · exact hliteral
  · exact hcombo
  · exact hliteral
  · exact decide_eq_true hfit -- BXC keeps its cell, whatever it is (R56)
  · exact hcombo
  · exact hcombo
  · exact hcombo

/-! ### Reads of the Program Store (R9, R31) -/

theorem memRead_of_le {m : Memory} {addr n : Nat} (h : addr + n ≤ m.length) :
    memRead m addr n = .ok ((m.drop addr).take n) := if_pos h

theorem memRead_of_lt {m : Memory} {addr n : Nat} (h : m.length < addr + n) :
    memRead m addr n = .error (.cellAbsent (addr + n - 1)) := if_neg (by omega)

/-- Settles O54: the read is a slice of the store when all its cells exist, and the named fault when they do not. -/
theorem memReadGivesCellsInOrder : Obligations.MemReadGivesCellsInOrder := by
  intro m addr n
  refine ⟨fun h => ⟨(m.drop addr).take n, memRead_of_le h, ?_, fun k hk => ?_⟩, fun h => ⟨_, memRead_of_lt h⟩⟩
  · rw [List.length_take, List.length_drop]
    omega
  · rw [List.getElem?_take_of_lt hk, List.getElem?_drop, memory_cell_eq]

end Sys2Proof.Machine
end

section
/-! SUPPORT. What an instruction's effect, a Step and a driver's operation keep, said once on top of the inversions
`exec_cases`, `step_cases` and `perform_cases`, and the inductions over a run and over a sequence of operations. -/
namespace Sys2Proof.Machine

/-! ### The values a register can be given (R15, R85, R93) -/

theorem shiftDown_le (v k : Nat) : shiftDown v k ≤ v := by
  unfold shiftDown
  split
  · exact Nat.zero_le v
  · exact Nat.shiftRight_le v k

theorem low3_lt (v : Nat) : low3 v < 8 := Nat.mod_lt v (by decide)

/-- Every register is below 2^m. -/
def registersBelow (m : Nat) (s : State) : Prop := ∀ r : Reg, readReg r s < 2 ^ m

theorem registersBelow_iff (m : Nat) (s : State) :
    registersBelow m s ↔ s.regA < 2 ^ m ∧ s.regB < 2 ^ m ∧ s.regC < 2 ^ m :=
  ⟨fun h => ⟨h .A, h .B, h .C⟩, fun ⟨hA, hB, hC⟩ r => by cases r <;> assumption⟩

theorem registersBelow_writeReg {m v : Nat} {s : State} (r : Reg) (hs : registersBelow m s) (hv : v < 2 ^ m) :
    registersBelow m (writeReg r v s) := by
  intro r'
  by_cases hr : r' = r
  · simpa [hr] using hv
  · simpa [readReg_writeReg_of_ne hr] using hs r'

/-- The value is below every power of two, from 2^3 on, that the registers of `s` are below: R15's bound on results. -/
def NoWiderThan (s : State) (v : Nat) : Prop := ∀ m, 3 ≤ m → registersBelow m s → v < 2 ^ m

theorem noWiderThan_of_le_regA {s : State} {v : Nat} (h : v ≤ s.regA) : NoWiderThan s v :=
  fun _ _ hs => h.trans_lt (hs .A)

theorem noWiderThan_of_lt_eight {s : State} {v : Nat} (h : v < 8) : NoWiderThan s v :=
  fun _ hm _ => h.trans_le (Laws.EncodeFits.eight_le_two_pow hm)

theorem noWiderThan_bitXor_regB {s : State} {v : Nat} (h : NoWiderThan s v) : NoWiderThan s (bitXor s.regB v) :=
  fun m hm hs => Nat.xor_lt_two_pow (hs .B) (h m hm hs)

/-! ### The error of a decoded instruction (R60, R62) -/

/-- The error of a combo operand: a cell without a value raises (R55, R59). -/
def comboCause : Combo → Cause
  | .num _ => .none
  | .reg _ => .none
  | .reserved _ => .invalidOperand

/-- The error of a literal operand (R59). -/
def literalCause : Literal → Cause
  | .num _ => .none
  | .outOfRange _ => .invalidOperand

/-- The error an instruction raises, which no state has a part in; BXC examines no operand (R56). -/
def instrCause : Instr → Cause
  | .adv op | .bst op | .out op | .bdv op | .cdv op => comboCause op
  | .bxl op | .jnz op => literalCause op
  | .bxc _ => .none

theorem comboCause_decodeCombo (opd : Nat) :
    comboCause (decodeCombo opd) = if 7 ≤ opd then .invalidOperand else .none := by
  by_cases hopd : 7 ≤ opd
  · simp [decodeCombo_reserved hopd, comboCause, hopd]
  · interval_cases opd <;> rfl

theorem literalCause_decodeLiteral (opd : Nat) :
    literalCause (decodeLiteral opd) = if 7 < opd then .invalidOperand else .none := by
  by_cases hopd : 7 < opd
  · simp [decodeLiteral_outOfRange hopd, literalCause, hopd]
  · interval_cases opd <;> rfl

/-- The table of R60 and R62 gives a decoded pair the error of its instruction. -/
theorem pairCause_eq_instrCause {opc opd : Nat} {i : Instr} (h : decode opc opd = .instr i) :
    pairCause opc opd = instrCause i := by
  have hcombo := (comboCause_decodeCombo opd).symm
  have hliteral := (literalCause_decodeLiteral opd).symm
  rcases decode_cases h with
    ⟨rfl, rfl⟩ | ⟨rfl, rfl⟩ | ⟨rfl, rfl⟩ | ⟨rfl, rfl⟩ | ⟨rfl, rfl⟩ | ⟨rfl, rfl⟩ | ⟨rfl, rfl⟩ | ⟨rfl, rfl⟩
  · exact hcombo
  · exact hliteral
  · exact hcombo
  · exact hliteral
  · rfl
  · exact hcombo
  · exact hcombo
  · exact hcombo

theorem pairCause_of_eight_le {opc : Nat} (h : 8 ≤ opc) (opd : Nat) : pairCause opc opd = .invalidOpcode := by
  have hkind : operandKind opc = none := by
    unfold operandKind
    split <;> first | omega | rfl
  simp [pairCause, hkind]

theorem raised_cause_ne_none (e : Raised) : e.cause ≠ .none := by
  cases e <;> simp [Raised.cause]

/-- The decoder reads a JNZ with a legal operand from opcode 3 and that literal only. -/
theorem decode_eq_jnz_num {opc opd : Nat} {n : Fin 8} (h : decode opc opd = .instr (.jnz (.num n))) :
    opc = 3 ∧ opd = n.val := by
  obtain ⟨hopc, hop⟩ : opc = 3 ∧ Literal.num n = decodeLiteral opd := by simpa using decode_cases h
  refine ⟨hopc, ?_⟩
  by_cases hopd : 8 ≤ opd
  · simp [decodeLiteral_outOfRange hopd] at hop
  · interval_cases opd <;> cases hop <;> rfl

/-! ### The effect of an instruction -/

/-- The shapes an effect can have: one write, of the register of R13's row and no wider than the registers were, and to
A of at most what it held; a taken branch; a branch not taken; one emission; or fault entry. -/
theorem exec_effect {i : Instr} {s t : State} (h : exec i s = .next t) :
    (∃ r v, instrWrites i = some r ∧ t = writeReg r v s ∧ NoWiderThan s v ∧ (r = .A → v ≤ s.regA)) ∨
    (∃ n : Fin 8, i = .jnz (.num n) ∧ s.regA ≠ 0 ∧ t = setPc n.val s) ∨
    ((∃ n : Fin 8, i = .jnz (.num n)) ∧ s.regA = 0 ∧ t = s) ∨
    (∃ v, t = emit v s) ∨
    (∃ cell, t = raiseError (.invalidOperand cell) s ∧ instrCause i = .invalidOperand) := by
  rcases exec_cases h with ⟨op, v, r, hi, -, rfl⟩ | ⟨n, rfl, rfl⟩ | ⟨op, v, rfl, -, rfl⟩ | ⟨n, rfl, hA, rfl⟩ |
    ⟨n, rfl, hA, rfl⟩ | ⟨cell, rfl, rfl⟩ | ⟨op, v, rfl, -, rfl⟩ | ⟨cell, rfl, hi⟩
  · have hle := shiftDown_le s.regA v
    refine .inl ⟨r, _, ?_, rfl, noWiderThan_of_le_regA hle, fun _ => hle⟩
    rcases hi with ⟨rfl, rfl⟩ | ⟨rfl, rfl⟩ | ⟨rfl, rfl⟩ <;> rfl
  · exact .inl ⟨.B, _, rfl, rfl, noWiderThan_bitXor_regB (noWiderThan_of_lt_eight n.isLt), nofun⟩
  · exact .inl ⟨.B, _, rfl, rfl, noWiderThan_of_lt_eight (low3_lt v), nofun⟩
  · exact .inr (.inl ⟨n, rfl, hA, rfl⟩)
  · exact .inr (.inr (.inl ⟨⟨n, rfl⟩, hA, rfl⟩))
  · exact .inl ⟨.B, _, rfl, rfl, noWiderThan_bitXor_regB fun _ _ hs => hs .C, nofun⟩
  · exact .inr (.inr (.inr (.inl ⟨_, rfl⟩)))
  · refine .inr (.inr (.inr (.inr ⟨cell, rfl, ?_⟩)))
    rcases hi with rfl | rfl | rfl | rfl | rfl | rfl | rfl <;> rfl

theorem exec_jnz_of_ne_zero {s : State} (n : Fin 8) (hA : s.regA ≠ 0) :
    exec (.jnz (.num n)) s = .next (setPc n.val s) := by
  simp [exec, execJnz, resolveLiteral, withOperand, hA]

/-- An instruction leaves every register but the one of R13's write column. -/
theorem exec_readReg_of_not_written {i : Instr} {s t : State} {r : Reg} (h : exec i s = .next t)
    (hr : instrWrites i ≠ some r) : readReg r t = readReg r s := by
  rcases exec_effect h with ⟨r', v, hw, rfl, -, -⟩ | ⟨n, -, -, rfl⟩ | ⟨-, -, rfl⟩ | ⟨v, rfl⟩ | ⟨cell, rfl, -⟩
  · have hne : r ≠ r' := by
      rintro rfl
      exact hr hw
    exact readReg_writeReg_of_ne hne v s
  · simp
  · rfl
  · simp
  · simp

/-- Of the instructions' effects only a taken branch moves pc (R97). -/
theorem exec_pc_of_not_taken {i : Instr} {s t : State} (h : exec i s = .next t)
    (hi : ∀ n : Fin 8, i = .jnz (.num n) → s.regA = 0) : t.pc = s.pc := by
  rcases exec_effect h with ⟨r, v, -, rfl, -, -⟩ | ⟨n, hjnz, hA, -⟩ | ⟨-, -, rfl⟩ | ⟨v, rfl⟩ | ⟨cell, rfl, -⟩
  · simp
  · exact absurd (hi n hjnz) hA
  · rfl
  · simp
  · simp

/-- An effect leaves STATUS and CAUSE, or it is fault entry. -/
theorem exec_status {i : Instr} {s t : State} (h : exec i s = .next t) :
    (t.status = s.status ∧ t.cause = s.cause) ∨ ∃ e, t = raiseError e s := by
  rcases exec_effect h with ⟨r, v, -, rfl, -, -⟩ | ⟨n, -, -, rfl⟩ | ⟨-, -, rfl⟩ | ⟨v, rfl⟩ | ⟨cell, rfl, -⟩
  · simp
  · simp
  · simp
  · simp
  · exact .inr ⟨_, rfl⟩

theorem exec_keeps_config {i : Instr} {s t : State} (h : exec i s = .next t) :
    t.prog = s.prog ∧ t.params = s.params := by
  rcases exec_effect h with ⟨r, v, -, rfl, -, -⟩ | ⟨n, -, -, rfl⟩ | ⟨-, -, rfl⟩ | ⟨v, rfl⟩ | ⟨cell, rfl, -⟩ <;> simp

theorem exec_keeps_registersBelow {m : Nat} (hm : 3 ≤ m) {i : Instr} {s t : State} (hs : registersBelow m s)
    (h : exec i s = .next t) : registersBelow m t := by
  rcases exec_effect h with ⟨r, v, -, rfl, hv, -⟩ | ⟨n, -, -, rfl⟩ | ⟨-, -, rfl⟩ | ⟨v, rfl⟩ | ⟨cell, rfl, -⟩
  · exact registersBelow_writeReg r hs (hv m hm hs)
  · exact hs
  · exact hs
  · exact hs
  · exact hs

theorem exec_regA_le {i : Instr} {s t : State} (h : exec i s = .next t) : t.regA ≤ s.regA := by
  rcases exec_effect h with ⟨r, v, -, rfl, -, hA⟩ | ⟨n, -, -, rfl⟩ | ⟨-, -, rfl⟩ | ⟨v, rfl⟩ | ⟨cell, rfl, -⟩
  · cases r with
    | A => simpa using hA rfl
    | B => simp
    | C => simp
  · simp
  · simp
  · simp
  · simp

/-! ### The Step (R71 to R74): its outcome from each kind of state -/

theorem step_of_not_running {s : State} (h : s.status ≠ .running) : step s = .next s := by
  cases hs : s.status with
  | running => exact absurd hs h
  | halted => simp [step, cycle, hs]
  | faulted => simp [step, cycle, hs]

theorem step_of_atEnd {s : State} (hrun : s.status = .running) (hend : s.prog.length ≤ s.pc + 1) :
    step s = .next (halt s) := by
  simp [step, cycle, hrun, (atEnd_eq_true_iff s).2 hend]

theorem cycle_of_pair {s : State} {opc opd : Nat} (hrun : s.status = .running) (hopc : s.prog[s.pc]? = some opc)
    (hopd : s.prog[s.pc + 1]? = some opd) : cycle s = dispatchPair opc opd (advancePc s) := by
  obtain ⟨_, rfl⟩ := List.getElem?_eq_some_iff.1 hopc
  obtain ⟨hlt, rfl⟩ := List.getElem?_eq_some_iff.1 hopd
  simp [cycle, hrun, (atEnd_eq_false_iff s).2 hlt, fetchAndDecode_eq hlt]

theorem step_of_eight_le {s : State} {opc opd : Nat} (hrun : s.status = .running) (hopc : s.prog[s.pc]? = some opc)
    (hopd : s.prog[s.pc + 1]? = some opd) (h : 8 ≤ opc) :
    step s = .next (raiseError (.invalidOpcode opc) (advancePc s)) := by
  simp [step, cycle_of_pair hrun hopc hopd, dispatchPair, decode_rejected h]

theorem step_of_decode {s : State} {opc opd : Nat} {i : Instr} (hrun : s.status = .running)
    (hopc : s.prog[s.pc]? = some opc) (hopd : s.prog[s.pc + 1]? = some opd) (h : decode opc opd = .instr i) :
    step s = exec i (advancePc s) := by
  simp [step, cycle_of_pair hrun hopc hopd, dispatchPair, h]

/-- A property that halting, the advance of pc, fault entry and every effect keep is kept by a Step. -/
theorem step_keeps {P : State → Prop} (hhalt : ∀ s, P s → P (halt s)) (hadvance : ∀ s, P s → P (advancePc s))
    (hraise : ∀ e s, P s → P (raiseError e s)) (hexec : ∀ i s t, P s → exec i s = .next t → P t)
    {s t : State} (hs : P s) (h : step s = .next t) : P t := by
  rcases step_cases h with ⟨-, rfl⟩ | ⟨-, -, rfl⟩ | ⟨-, opc, opd, -, -, ⟨-, rfl⟩ | ⟨i, -, hi⟩⟩
  · exact hs
  · exact hhalt s hs
  · exact hraise _ _ (hadvance s hs)
  · exact hexec i _ t (hadvance s hs) hi

theorem step_keeps_config {s t : State} (h : step s = .next t) : t.prog = s.prog ∧ t.params = s.params :=
  step_keeps (P := fun u => u.prog = s.prog ∧ u.params = s.params) (fun _ hu => hu) (fun _ hu => hu)
    (fun _ _ hu => hu)
    (fun _ _ _ hu he => ⟨(exec_keeps_config he).1.trans hu.1, (exec_keeps_config he).2.trans hu.2⟩) ⟨rfl, rfl⟩ h

theorem step_keeps_registersBelow {m : Nat} (hm : 3 ≤ m) {s t : State} (hs : registersBelow m s)
    (h : step s = .next t) : registersBelow m t :=
  step_keeps (fun _ hu => hu) (fun _ hu => hu) (fun _ _ hu => hu) (fun _ _ _ => exec_keeps_registersBelow hm) hs h

theorem step_regA_le {s t : State} (h : step s = .next t) : t.regA ≤ s.regA :=
  step_keeps (P := fun u => u.regA ≤ s.regA) (fun _ hu => hu) (fun _ hu => hu) (fun _ _ hu => hu)
    (fun _ _ _ hu he => (exec_regA_le he).trans hu) le_rfl h

/-! ### Runs and sequences of operations -/

theorem performAll_cons_next {op : DriverOp} {ops : List DriverOp} {s t : State}
    (h : performAll (op :: ops) s = .next t) : ∃ u, perform op s = .next u ∧ performAll ops u = .next t := by
  unfold performAll at h
  split at h
  · next u hu => exact ⟨u, hu, h⟩
  · cases h
  · cases h

/-- What each operation of a sequence keeps, the sequence keeps. -/
theorem performAll_keeps {P : State → Prop} {ops : List DriverOp}
    (hop : ∀ op ∈ ops, ∀ s t, P s → perform op s = .next t → P t) {s t : State} (hs : P s)
    (h : performAll ops s = .next t) : P t := by
  induction ops generalizing s with
  | nil => cases h; exact hs
  | cons op ops ih =>
    obtain ⟨u, hu, h⟩ := performAll_cons_next h
    exact ih (fun o ho => hop o (List.mem_cons_of_mem _ ho)) (hop op List.mem_cons_self s u hs hu) h

/-- What a Step keeps, a run under any budget keeps (R79). -/
theorem run_keeps {P : State → Prop} (hstep : ∀ s t, P s → step s = .next t → P t) {n : Nat} {s t : State}
    (hs : P s) (h : run n s = .next t) : P t := by
  induction n generalizing s with
  | zero => cases h; exact hs
  | succ n ih =>
    unfold run at h
    split at h
    · split at h
      · next u hu => exact ih (hstep s u hs hu) h
      · cases h
      · cases h
    · cases h; exact hs

theorem perform_keeps_config {op : DriverOp} {s t : State} (h : perform op s = .next t) :
    t.prog = s.prog ∧ t.params = s.params := by
  rcases perform_cases h with ⟨-, h⟩ | ⟨-, rfl⟩ | ⟨r, v, n, -, -, -, rfl⟩ | ⟨-, rfl⟩ | ⟨contents, -, rfl⟩
  · exact step_keeps_config h
  · simp
  · simp
  · simp
  · simp

theorem performAll_keeps_prog {ops : List DriverOp} {s t : State} (h : performAll ops s = .next t) :
    t.prog = s.prog :=
  performAll_keeps (P := fun u => u.prog = s.prog)
    (fun _ _ _ _ hu hp => (perform_keeps_config hp).1.trans hu) rfl h

end Sys2Proof.Machine
end

section
/-! SUPPORT. The invariant of Safety.lean, operation by operation, and what follows from it at every moment after a
construction (R12, R15, R18, R21, R22, R110). -/
namespace Sys2Proof.Machine

/-! ### Widths -/

/-- A value no wider than registers that fit REG_W fits REG_W (R15); REG_W is at least 3 (R5). -/
theorem fitsWidth_of_noWiderThan {s : State} {v : Nat} (hp : paramsInRange s.params = true) (hs : registersFit s)
    (hv : NoWiderThan s v) : fitsWidth s.params.regW v = true := by
  cases hw : s.params.regW with
  | inf => rfl
  | finite w =>
    have hw3 : 3 ≤ w := by
      simp only [paramsInRange, hw, Bool.and_eq_true, decide_eq_true_eq] at hp
      exact hp.1
    have hbelow : registersBelow w s := fun r => by simpa [hw, fitsWidth] using hs r
    simpa [fitsWidth] using hv w hw3 hbelow

theorem three_le_bitLength_max_seven (n : Nat) : 3 ≤ bitLength (max n 7) := by
  by_contra h
  have hlt : max n 7 < 2 ^ 2 := (bitLength_le_iff _ _).1 (by omega)
  omega

/-! ### The invariant after each change of the state -/

/-- The invariant speaks of the registers through their fit only, and not of the sink. -/
theorem inv_of_same_control {s t : State} (hs : Inv s) (hparams : t.params = s.params) (hprog : t.prog = s.prog)
    (hpc : t.pc = s.pc) (hstatus : t.status = s.status) (hcause : t.cause = s.cause) (hregs : registersFit t) :
    Inv t where
  paramsInRange := by rw [hparams]; exact hs.paramsInRange
  storeWf := by rw [hprog, hparams]; exact hs.storeWf
  registersFit := hregs
  pcBounded := by rw [hpc, hprog]; exact hs.pcBounded
  haltedAtEnd := by rw [atEnd, hstatus, hpc, hprog]; exact hs.haltedAtEnd
  causeIffFaulted := by rw [hcause, hstatus]; exact hs.causeIffFaulted
  faultedPair := by rw [faultingPairStands, hstatus, hpc, hprog, hcause]; exact hs.faultedPair

theorem inv_writeReg {s : State} {r : Reg} {v : Nat} (hs : Inv s) (hv : fitsWidth s.params.regW v = true) :
    Inv (writeReg r v s) := by
  refine inv_of_same_control hs (by simp) (by simp) (by simp) (by simp) (by simp) fun r' => ?_
  by_cases hr : r' = r
  · simpa [hr] using hv
  · simpa [readReg_writeReg_of_ne hr] using hs.registersFit r'

theorem inv_withSink {s : State} (hs : Inv s) (contents : List OutVal) : Inv { s with sink := contents } :=
  inv_of_same_control hs rfl rfl rfl rfl rfl hs.registersFit

theorem cause_none_of_not_faulted {s : State} (hs : Inv s) (h : s.status ≠ .faulted) : s.cause = .none :=
  Decidable.not_not.1 fun hc => h (hs.causeIffFaulted.1 hc)

/-- In Running the invariant asks nothing of AtEnd or of a faulting pair, so pc may be anything in bounds. -/
theorem inv_setPc_of_running {s : State} (hs : Inv s) (hrun : s.status = .running) {pc : Nat}
    (hpc : pc ≤ max s.prog.length 7) : Inv (setPc pc s) where
  paramsInRange := hs.paramsInRange
  storeWf := hs.storeWf
  registersFit := hs.registersFit
  pcBounded := hpc
  haltedAtEnd := by simp [hrun]
  causeIffFaulted := hs.causeIffFaulted
  faultedPair := by simp [hrun]

theorem inv_halt {s : State} (hs : Inv s) (hrun : s.status = .running) (hend : s.prog.length ≤ s.pc + 1) :
    Inv (halt s) where
  paramsInRange := hs.paramsInRange
  storeWf := hs.storeWf
  registersFit := hs.registersFit
  pcBounded := hs.pcBounded
  haltedAtEnd := fun _ => (atEnd_eq_true_iff s).2 hend
  causeIffFaulted := by simp [cause_none_of_not_faulted hs (by simp [hrun])]
  faultedPair := by simp

/-- Fault entry of a fetched pair that raises this error: the pair stands below the advanced pc (R110). -/
theorem inv_raise_fetched {s : State} {e : Raised} {opc opd : Nat} (hs : Inv s) (hopc : s.prog[s.pc]? = some opc)
    (hopd : s.prog[s.pc + 1]? = some opd) (hcause : pairCause opc opd = e.cause) :
    Inv (raiseError e (advancePc s)) where
  paramsInRange := hs.paramsInRange
  storeWf := hs.storeWf
  registersFit := hs.registersFit
  pcBounded := by
    obtain ⟨hlt, -⟩ := List.getElem?_eq_some_iff.1 hopd
    rw [raiseError_pc, raiseError_prog, advancePc_pc, advancePc_prog]
    omega
  haltedAtEnd := by simp
  causeIffFaulted := by simp [raised_cause_ne_none]
  faultedPair := fun _ => ⟨opc, opd, by simp, by simpa using hopc, by simpa using hopd, hcause⟩

theorem inv_resetInstance {s : State} (hs : Inv s) : Inv (resetInstance s) where
  paramsInRange := hs.paramsInRange
  storeWf := hs.storeWf
  registersFit := hs.registersFit
  pcBounded := Nat.zero_le _
  haltedAtEnd := by simp
  causeIffFaulted := by simp
  faultedPair := by simp

/-- The effect of the pair at pc, applied after the advance. -/
theorem inv_exec_fetched {s t : State} {opc opd : Nat} {i : Instr} (hs : Inv s) (hrun : s.status = .running)
    (hopc : s.prog[s.pc]? = some opc) (hopd : s.prog[s.pc + 1]? = some opd) (hdec : decode opc opd = .instr i)
    (h : exec i (advancePc s) = .next t) : Inv t := by
  have hlt : s.pc + 1 < s.prog.length := (List.getElem?_eq_some_iff.1 hopd).1
  have hadv : Inv (advancePc s) := inv_setPc_of_running hs hrun (by omega)
  rcases exec_effect h with ⟨r, v, -, rfl, hv, -⟩ | ⟨n, -, -, rfl⟩ | ⟨-, -, rfl⟩ | ⟨v, rfl⟩ | ⟨cell, rfl, hraises⟩
  · exact inv_writeReg hadv (fitsWidth_of_noWiderThan hadv.paramsInRange hadv.registersFit hv)
  · exact inv_setPc_of_running hadv hrun (by omega)
  · exact hadv
  · exact inv_withSink hadv _
  · exact inv_raise_fetched hs hopc hopd ((pairCause_eq_instrCause hdec).trans hraises)

/-- Settles O34: by the cases of a Step, each through the lemma on its change of the state. -/
theorem stepKeepsInvariant : Obligations.StepKeepsInvariant := by
  intro s t hs h
  rcases step_cases h with
    ⟨-, rfl⟩ | ⟨hrun, hend, rfl⟩ | ⟨hrun, opc, opd, hopc, hopd, ⟨hbig, rfl⟩ | ⟨i, hdec, hexec⟩⟩
  · exact hs
  · exact inv_halt hs hrun hend
  · exact inv_raise_fetched hs hopc hopd (pairCause_of_eight_le hbig opd)
  · exact inv_exec_fetched hs hrun hopc hopd hdec hexec

/-- Settles O35: field by field, on the concrete state. -/
theorem resetStateHasInvariant : Obligations.ResetStateHasInvariant where
  paramsInRange := rfl
  storeWf := reset_memory_wf
  registersFit := fun _ => rfl
  pcBounded := Nat.zero_le _
  haltedAtEnd := nofun
  causeIffFaulted := by decide
  faultedPair := nofun

/-! ### At every moment after a construction -/

/-- A construction that is not refused passed every check (R125, R126). -/
theorem construct_cases {p : Params} {cells : List Int} {a b c : Int} {sink : List OutVal} {s : State}
    (h : construct p cells a b c sink = .next s) :
    paramsInRange p = true ∧ ∃ prog x y z, checkProgram p cells = .ok prog ∧ checkReg p a = .ok x ∧
      checkReg p b = .ok y ∧ checkReg p c = .ok z ∧
      s = { params := p, prog := prog, regA := x, regB := y, regC := z, pc := 0, status := .running,
            cause := .none, sink := sink } := by
  unfold construct at h
  split at h
  · next hp =>
    split at h
    · next prog x y z hprog ha hb hc =>
      cases h
      exact ⟨hp, prog, x, y, z, hprog, ha, hb, hc, rfl⟩
    all_goals cases h
  · cases h

theorem construct_inv {p : Params} {cells : List Int} {a b c : Int} {sink : List OutVal} {s : State}
    (h : construct p cells a b c sink = .next s) : Inv s := by
  obtain ⟨hp, prog, x, y, z, hprog, ha, hb, hc, rfl⟩ := construct_cases h
  exact {
    paramsInRange := hp
    storeWf := (checkProgram_ok hprog).2
    registersFit := fun r => by
      cases r with
      | A => exact (checkReg_ok ha).2
      | B => exact (checkReg_ok hb).2
      | C => exact (checkReg_ok hc).2
    pcBounded := Nat.zero_le _
    haltedAtEnd := nofun
    causeIffFaulted := by simp
    faultedPair := nofun }

theorem perform_keeps_inv {op : DriverOp} {s t : State} (hs : Inv s) (h : perform op s = .next t) : Inv t := by
  rcases perform_cases h with ⟨-, h⟩ | ⟨-, rfl⟩ | ⟨r, v, n, -, -, hn, rfl⟩ | ⟨-, rfl⟩ | ⟨contents, -, rfl⟩
  · exact stepKeepsInvariant s t hs h
  · exact inv_resetInstance hs
  · exact inv_writeReg hs hn
  · exact hs
  · exact inv_withSink hs contents

/-- The invariant at every moment after a construction. -/
theorem inv_of_constructed {p : Params} {cells : List Int} {a b c : Int} {sink : List OutVal} {ops : List DriverOp}
    {s t : State} (hs : construct p cells a b c sink = .next s) (h : performAll ops s = .next t) : Inv t :=
  performAll_keeps (fun _ _ _ _ => perform_keeps_inv) (construct_inv hs) h

/-- Settles O38: the bound is the invariant's; LEN is at most LEN_MAX, so IP_W holds it (R8). -/
theorem pcAtMostLenOrSeven : Obligations.PcAtMostLenOrSeven := by
  intro p cells a b c sink ops s t hs h
  have hinv := inv_of_constructed hs h
  refine ⟨hinv.pcBounded, fun w hw => ?_⟩
  obtain ⟨-, hlen⟩ := (memory_wf_iff _ _).1 hinv.storeWf
  cases hmax : t.params.lenMax with
  | inf => simp [ipWidth, hmax] at hw
  | finite n =>
    obtain rfl : bitLength (max n 7) = w := by simpa [ipWidth, hmax] using hw
    have hlen : t.prog.length ≤ n := by simpa [hmax, fitsLength] using hlen
    have hpc := hinv.pcBounded
    have hlt := lt_two_pow_bitLength (max n 7)
    exact ⟨three_le_bitLength_max_seven n, by omega⟩

/-- Settles O39: both parts are fields of the invariant. -/
theorem statusAndCauseAgree : Obligations.StatusAndCauseAgree := by
  intro p cells a b c sink ops s t hs h
  have hinv := inv_of_constructed hs h
  exact ⟨fun hh => Nat.not_lt.2 ((atEnd_eq_true_iff t).1 (hinv.haltedAtEnd hh)), hinv.causeIffFaulted⟩

end Sys2Proof.Machine
end

section
/-! SUPPORT. Widths of results, and what an outcome does not depend on: the parameters (R15) and the registers an
instruction does not read (R13, R134). -/
namespace Sys2Proof.Machine

/-! ### The parameters -/

/-- The state with other parameters. -/
def setParams (p : Params) (s : State) : State := { s with params := p }

/-- No effect looks at the parameters. -/
theorem exec_setParams (p : Params) {i : Instr} {s t : State} (h : exec i s = .next t) :
    exec i (setParams p s) = .next (setParams p t) := by
  cases i with
  | adv op | bst op | out op | bdv op | cdv op => cases op <;> cases h <;> rfl
  | bxl op => cases op <;> cases h <;> rfl
  | bxc cell => cases h; rfl
  | jnz op =>
    cases op with
    | outOfRange cell => cases h; rfl
    | num n =>
      cases h
      exact congrArg Host.Outcome.next (apply_ite (setParams p) (s.regA ≠ 0) (setPc n.val s) s).symm

theorem step_setParams (p : Params) {s t : State} (h : step s = .next t) :
    step (setParams p s) = .next (setParams p t) := by
  rcases step_cases h with
    ⟨hrun, rfl⟩ | ⟨hrun, hend, rfl⟩ | ⟨hrun, opc, opd, hopc, hopd, ⟨hbig, rfl⟩ | ⟨i, hdec, hexec⟩⟩
  · exact step_of_not_running hrun
  · exact step_of_atEnd hrun hend
  · exact step_of_eight_le hrun hopc hopd hbig
  · exact (step_of_decode (s := setParams p s) hrun hopc hopd hdec).trans (exec_setParams p hexec)

/-- Settles O37: each Step keeps the bound, by the bound on every value an effect writes; and no Step looks at the
parameters. -/
theorem registersNeverGrowWider : Obligations.RegistersNeverGrowWider := by
  refine ⟨fun n m s t hm hA hB hC h => (registersBelow_iff m t).1 ?_, fun p s t => step_setParams p⟩
  refine performAll_keeps (fun op hop u u' hu hp => ?_) ((registersBelow_iff m s).2 ⟨hA, hB, hC⟩) h
  rw [List.eq_of_mem_replicate hop] at hp
  exact step_keeps_registersBelow hm hu hp

/-- Settles O42: each Step keeps A at or below what it was. -/
theorem runNeverIncreasesA : Obligations.RunNeverIncreasesA := fun _ s _ h =>
  run_keeps (P := fun u => u.regA ≤ s.regA) (fun _ _ hu hstep => (step_regA_le hstep).trans hu) le_rfl h

/-! ### The registers an instruction does not read -/

/-- Two states that agree in everything an effect can change, but for one register. -/
structure AgreeExcept (r : Reg) (u t : State) : Prop where
  registers : ∀ r', r' ≠ r → readReg r' u = readReg r' t
  pc : u.pc = t.pc
  status : u.status = t.status
  cause : u.cause = t.cause
  sink : u.sink = t.sink

theorem agreeExcept_writeReg_self (r : Reg) (v : Nat) (s : State) : AgreeExcept r (writeReg r v s) s :=
  ⟨fun _ hr => readReg_writeReg_of_ne hr v s, by simp, by simp, by simp, by simp⟩

theorem resolveCombo_of_agreeExcept {r : Reg} {u t : State} {op : Combo} (h : AgreeExcept r u t)
    (hr : r ∉ comboReads op) : resolveCombo op u = resolveCombo op t := by
  cases op with
  | num n => rfl
  | reg r' => exact congrArg Resolved.value (h.registers r' (by simpa [comboReads, eq_comm] using hr))
  | reserved cell => rfl

/-- Two outcomes of an instruction that agree but for a register, and in that one too if the instruction writes it
and does not fault. -/
def SameOutcome (i : Instr) (r : Reg) (u t : State) : Prop :=
  AgreeExcept r u t ∧ (instrWrites i = some r → t.status ≠ .faulted → readReg r u = readReg r t)

section
variable {i : Instr} {r : Reg} {u t : State} (h : AgreeExcept r u t)
include h

theorem sameOutcome_raiseError (e : Raised) : SameOutcome i r (raiseError e u) (raiseError e t) :=
  ⟨⟨by simpa using h.registers, h.pc, rfl, rfl, h.sink⟩, fun _ hst => absurd rfl hst⟩

theorem sameOutcome_writeReg {r' : Reg} (hw : instrWrites i = some r') (v : Nat) :
    SameOutcome i r (writeReg r' v u) (writeReg r' v t) := by
  refine ⟨⟨fun q hq => ?_, by simpa using h.pc, by simpa using h.status, by simpa using h.cause,
    by simpa using h.sink⟩, fun hwr _ => ?_⟩
  · by_cases hq' : q = r'
    · simp [hq']
    · simpa [readReg_writeReg_of_ne hq'] using h.registers q hq
  · obtain rfl : r' = r := by simpa [hw] using hwr
    simp

theorem sameOutcome_of_no_write (hw : instrWrites i = none) : SameOutcome i r u t :=
  ⟨h, fun hwr => by simp [hw] at hwr⟩

theorem agreeExcept_setPc (n : Nat) : AgreeExcept r (setPc n u) (setPc n t) :=
  ⟨by simpa using h.registers, rfl, h.status, h.cause, h.sink⟩

theorem agreeExcept_emit (v : OutVal) : AgreeExcept r (emit v u) (emit v t) :=
  ⟨by simpa using h.registers, h.pc, h.status, h.cause, by simp [h.sink]⟩

/-- An operand that resolves alike gives like outcomes, if the effect does. -/
theorem withOperand_sameOutcome {x y : Resolved} {effect : Nat → State → State} {t' : State} (hres : x = y)
    (heff : ∀ v, SameOutcome i r (effect v u) (effect v t)) (hex : withOperand y effect t = .next t') :
    ∃ u', withOperand x effect u = .next u' ∧ SameOutcome i r u' t' := by
  rcases withOperand_cases hex with ⟨v, rfl, rfl⟩ | ⟨e, rfl, rfl⟩
  · exact ⟨_, by rw [hres]; rfl, heff v⟩
  · exact ⟨_, by rw [hres]; rfl, sameOutcome_raiseError h e⟩

/-- ADV, BDV and CDV read A and their operand (R13). -/
theorem divideInto_sameOutcome {dst : Reg} (hw : instrWrites i = some dst) (hA : r ≠ .A) (v : Nat) :
    SameOutcome i r (divideInto dst v u) (divideInto dst v t) := by
  rw [divideInto, divideInto, h.registers .A hA.symm]
  exact sameOutcome_writeReg h hw _

theorem exec_sameOutcome {t' : State} (hr : r ∉ instrReads i) (hex : exec i t = .next t') :
    ∃ u', exec i u = .next u' ∧ SameOutcome i r u' t' := by
  cases i with
  | adv op | bdv op | cdv op =>
    obtain ⟨hA, hop⟩ : r ≠ .A ∧ r ∉ comboReads op := by simpa [instrReads] using hr
    exact withOperand_sameOutcome h (resolveCombo_of_agreeExcept h hop) (divideInto_sameOutcome h rfl hA) hex
  | bst op =>
    exact withOperand_sameOutcome h (resolveCombo_of_agreeExcept h hr) (fun v => sameOutcome_writeReg h rfl _) hex
  | out op =>
    exact withOperand_sameOutcome h (resolveCombo_of_agreeExcept h hr)
      (fun v => sameOutcome_of_no_write (agreeExcept_emit h _) rfl) hex
  | bxl op =>
    have hB : readReg .B u = readReg .B t := h.registers .B (by simpa [instrReads, eq_comm] using hr)
    refine withOperand_sameOutcome (effect := fun val s => writeReg .B (bitXor (readReg .B s) val) s) h rfl
      (fun v => ?_) hex
    simp only [hB]
    exact sameOutcome_writeReg h rfl _
  | bxc cell =>
    obtain ⟨hB, hC⟩ : r ≠ .B ∧ r ≠ .C := by simpa [instrReads] using hr
    cases hex
    refine ⟨_, rfl, ?_⟩
    rw [h.registers .B hB.symm, h.registers .C hC.symm]
    exact sameOutcome_writeReg h rfl _
  | jnz op =>
    have hA : readReg .A u = readReg .A t := h.registers .A (by simpa [instrReads, eq_comm] using hr)
    refine withOperand_sameOutcome (effect := fun val s => if readReg .A s ≠ 0 then setPc val s else s) h rfl
      (fun v => sameOutcome_of_no_write ?_ rfl) hex
    simp only [hA]
    split
    · exact agreeExcept_setPc h v
    · exact h

end

/-- Settles O32: a state and the same state with another value in the unread register agree but for it. -/
theorem unreadRegisterDoesNotMatter : Obligations.UnreadRegisterDoesNotMatter := by
  intro i r v s t hr h
  obtain ⟨u, hu, hsame, hwritten⟩ := exec_sameOutcome (agreeExcept_writeReg_self r v s) hr h
  exact ⟨u, hu, hsame.registers, hsame.pc, hsame.status, hsame.cause, hsame.sink, hwritten⟩

end Sys2Proof.Machine
end

section
/-! SUPPORT. How STATUS, CAUSE, pc and the registers change, and what the driver writes and reads (R13, R17, R20 to
R27, R78, R97, R105, R108). -/
namespace Sys2Proof.Machine

/-! ### The control registers -/

/-- A Step that fetches leaves STATUS and CAUSE, or ends Faulted with a cause on the advanced pc. -/
theorem step_status_of_fetch {s t : State} (hrun : s.status = .running) (hlt : s.pc + 1 < s.prog.length)
    (h : step s = .next t) :
    (t.status = .running ∧ t.cause = s.cause) ∨ (t.status = .faulted ∧ t.cause ≠ .none ∧ t.pc = s.pc + 2) := by
  rcases step_cases h with
    ⟨hne, -⟩ | ⟨-, hend, -⟩ | ⟨-, opc, opd, -, -, ⟨-, rfl⟩ | ⟨i, -, hexec⟩⟩
  · exact absurd hrun hne
  · omega
  · exact .inr ⟨rfl, raised_cause_ne_none (.invalidOpcode opc), rfl⟩
  · rcases exec_status hexec with ⟨hstatus, hcause⟩ | ⟨e, rfl⟩
    · exact .inl ⟨hstatus.trans hrun, hcause⟩
    · exact .inr ⟨rfl, raised_cause_ne_none e, rfl⟩

theorem perform_keeps_control {op : DriverOp} {s t : State} (h : perform op s = .next t) (hstep : op ≠ .step)
    (hreset : op ≠ .reset) : t.status = s.status ∧ t.pc = s.pc ∧ t.cause = s.cause := by
  rcases perform_cases h with ⟨rfl, -⟩ | ⟨rfl, -⟩ | ⟨r, v, n, -, -, -, rfl⟩ | ⟨-, rfl⟩ | ⟨contents, -, rfl⟩
  · exact absurd rfl hstep
  · exact absurd rfl hreset
  · simp
  · simp
  · simp

/-- Settles O26: one row of R78's table after the other. -/
theorem statusTransitions : Obligations.StatusTransitions := by
  intro op s t h
  refine ⟨?_, ?_, ?_, ?_, perform_keeps_control h⟩
  · rintro rfl hrun hlt
    exact step_status_of_fetch hrun hlt h
  · rintro rfl hrun hend
    cases (step_of_atEnd hrun (Nat.not_lt.1 hend)).symm.trans h
    exact ⟨rfl, rfl, rfl⟩
  · rintro rfl hne
    cases (step_of_not_running hne).symm.trans h
    rfl
  · rintro rfl
    cases h
    exact ⟨rfl, rfl, rfl⟩

/-! ### The instruction pointer -/

theorem step_pc_of_no_fetch {s t : State} (hno : ¬ (s.status = .running ∧ s.pc + 1 < s.prog.length))
    (h : step s = .next t) : t.pc = s.pc := by
  rcases step_cases h with ⟨-, rfl⟩ | ⟨-, -, rfl⟩ | ⟨hrun, opc, opd, -, hopd, -⟩
  · rfl
  · rfl
  · exact absurd ⟨hrun, (List.getElem?_eq_some_iff.1 hopd).1⟩ hno

/-- A fetched JNZ with a legal literal and A not zero leaves pc at the literal (R95). -/
theorem step_pc_of_taken {s t : State} {n : Nat} (hrun : s.status = .running) (hn : n ≤ 7)
    (hopc : s.prog[s.pc]? = some 3) (hopd : s.prog[s.pc + 1]? = some n) (hA : s.regA ≠ 0) (h : step s = .next t) :
    t.pc = n := by
  have hdec : decode 3 n = .instr (.jnz (.num ⟨n, by omega⟩)) := by interval_cases n <;> rfl
  rw [step_of_decode hrun hopc hopd hdec, exec_jnz_of_ne_zero _ (by simpa using hA)] at h
  cases h
  rfl

theorem step_pc_of_not_taken {s t : State} {opc opd : Nat} (hrun : s.status = .running)
    (hopc : s.prog[s.pc]? = some opc) (hopd : s.prog[s.pc + 1]? = some opd)
    (hno : ¬ (opc = 3 ∧ opd ≤ 7 ∧ s.regA ≠ 0)) (h : step s = .next t) : t.pc = s.pc + 2 := by
  rcases step_cases h with ⟨hne, -⟩ | ⟨-, hend, -⟩ | ⟨-, opc', opd', hopc', hopd', ⟨-, rfl⟩ | ⟨i, hdec, hexec⟩⟩
  · exact absurd hrun hne
  · have hlt := (List.getElem?_eq_some_iff.1 hopd).1
    omega
  · rfl
  · obtain rfl : opc = opc' := Option.some.inj (hopc.symm.trans hopc')
    obtain rfl : opd = opd' := Option.some.inj (hopd.symm.trans hopd')
    refine exec_pc_of_not_taken hexec fun n hi => ?_
    obtain ⟨rfl, rfl⟩ := decode_eq_jnz_num (hi ▸ hdec)
    by_contra hA
    exact hno ⟨rfl, by omega, hA⟩

/-- Settles O27: the fetched pair is a taken JNZ with a legal literal, or pc stays advanced. -/
theorem pcChangesOnlyAsStated : Obligations.PcChangesOnlyAsStated := by
  refine ⟨fun s t h => ⟨?_, fun hno => step_pc_of_no_fetch hno h⟩, fun i s t h hpc => ?_, fun s => rfl⟩
  · rintro ⟨hrun, hlt⟩
    obtain ⟨opc, hopc⟩ : ∃ opc, s.prog[s.pc]? = some opc := ⟨_, List.getElem?_eq_getElem (by omega)⟩
    obtain ⟨opd, hopd⟩ : ∃ opd, s.prog[s.pc + 1]? = some opd := ⟨_, List.getElem?_eq_getElem hlt⟩
    by_cases htaken : opc = 3 ∧ opd ≤ 7 ∧ s.regA ≠ 0
    · obtain ⟨rfl, hopd7, hA⟩ := htaken
      exact .inl ⟨opd, hopd7, hopc, hopd, hA, step_pc_of_taken hrun hopd7 hopc hopd hA h⟩
    · refine .inr ⟨?_, step_pc_of_not_taken hrun hopc hopd htaken h⟩
      by_cases hopc3 : opc = 3
      · by_cases hA : s.regA = 0
        · exact .inr (.inl hA)
        · exact .inr (.inr ⟨opd, Nat.lt_of_not_le fun hle => htaken ⟨hopc3, hle, hA⟩, hopd⟩)
      · exact .inl (by simpa [hopc] using hopc3)
  · by_contra hno
    exact hpc (exec_pc_of_not_taken h fun n hi => absurd ⟨n, hi⟩ hno)

/-! ### The registers -/

/-- An instruction that changed a register is one that writes it. -/
theorem instrWrites_of_changed {i : Instr} {s t : State} {r : Reg} (h : exec i s = .next t)
    (hr : readReg r t ≠ readReg r s) : instrWrites i = some r :=
  Decidable.not_not.1 fun hw => hr (exec_readReg_of_not_written h hw)

/-- Settles O31: by the write column, which names one register for each instruction. -/
theorem whoWritesWhichRegister : Obligations.WhoWritesWhichRegister := by
  intro i s t h
  refine ⟨fun hA => ?_, fun hC => ?_, fun hB => ?_⟩
  · have hw := instrWrites_of_changed (r := .A) h hA
    cases i with
    | adv op => exact ⟨op, rfl⟩
    | _ => cases hw
  · have hw := instrWrites_of_changed (r := .C) h hC
    cases i with
    | cdv op => exact ⟨op, rfl⟩
    | _ => cases hw
  · have hw := instrWrites_of_changed (r := .B) h hB
    cases i with
    | bxl op => exact .inl ⟨op, rfl⟩
    | bst op => exact .inr (.inl ⟨op, rfl⟩)
    | bxc cell => exact .inr (.inr (.inl ⟨cell, rfl⟩))
    | bdv op => exact .inr (.inr (.inr ⟨op, rfl⟩))
    | _ => cases hw

theorem checkReg_of_fits {p : Params} {v : Nat} (h : ∀ w, p.regW = .finite w → v < 2 ^ w) :
    checkReg p (Int.ofNat v) = .ok v := by
  have hfits : fitsWidth p.regW v = true := by
    cases hw : p.regW with
    | finite w => exact decide_eq_true (h w hw)
    | inf => rfl
  simp [checkReg, hfits]

theorem checkReg_of_not_fits {p : Params} {v : Int} (h : v < 0 ∨ ∃ w, p.regW = .finite w ∧ (2 : Int) ^ w ≤ v) :
    ∃ e, checkReg p v = .bad e := by
  cases hv : checkReg p v with
  | bad e => exact ⟨e, rfl⟩
  | ok n =>
    obtain ⟨rfl, hfits⟩ := checkReg_ok hv
    rcases h with hneg | ⟨w, hw, hwide⟩
    · exact absurd hneg (Int.not_lt.2 (Int.natCast_nonneg n))
    · have hlt : n < 2 ^ w := by simpa [hw, fitsWidth] using hfits
      have hltInt : (n : Int) < 2 ^ w := by exact_mod_cast hlt
      exact absurd hwide (Int.not_le.2 hltInt)

/-- Settles O46: a value that fits passes the check and is written; one that does not is refused by it. -/
theorem setRegWritesOneRegister : Obligations.SetRegWritesOneRegister := by
  refine ⟨fun s v h => ?_, fun s r v h => ?_⟩
  · have hset (r : Reg) : perform (.setReg r (Int.ofNat v)) s = .next (writeReg r v s) := by
      simp only [perform, setReg, checkReg_of_fits h]
    exact ⟨hset .A, hset .B, hset .C⟩
  · obtain ⟨e, he⟩ := checkReg_of_not_fits h
    exact ⟨e, by simp only [perform, setReg, he]⟩

/-! ### What the driver reads -/

/-- Settles O47: each read is the state's own value, by definition. -/
theorem readsChangeNothing : Obligations.ReadsChangeNothing := fun _ =>
  ⟨fun _ => rfl, rfl, rfl, rfl, rfl, rfl, rfl, rfl, rfl, rfl, rfl, rfl⟩

/-- Settles O48: MALFORMED is a function of the Program, which no operation changes. -/
theorem malformedIsParityOfLength : Obligations.MalformedIsParityOfLength := by
  refine ⟨fun s => ?_, fun ops s t h => ?_, fun s hrun hlast => step_of_atEnd hrun hlast.ge⟩
  · simp [malformed]
  · rw [malformed, malformed, performAll_keeps_prog h]

/-- Settles O52: by the tables of the codes. -/
theorem controlRegisterCodes : Obligations.ControlRegisterCodes := by
  refine ⟨rfl, rfl, rfl, rfl, rfl, rfl, rfl, rfl, rfl, rfl, fun st => ?_, fun c => ?_, fun e c h => ?_⟩
  · cases st <;> decide
  · cases c <;> decide
  · cases e <;> cases h <;> rfl

end Sys2Proof.Machine
end

section
/-! SUPPORT. The family of spec/20_memory.md: the encoder's cells read back (R39, R51), the total Step (R43, R76), the
Program and the sink as a driver sees them (R32, R34, R37), and instances side by side (R47, R121). -/
namespace Sys2Proof.Machine

/-! ### Decoding what was encoded (R51 to R59) -/

/-- The cell of a combo operand is read back: `reserved` holds no cell that R54 gives a value. -/
theorem decodeCombo_encodeCombo {cellW : Nat} {op : Combo} (hw : op.wellFormed cellW = true) :
    decodeCombo (encodeCombo op) = op := by
  cases op with
  | num n => fin_cases n <;> rfl
  | reg r => cases r <;> rfl
  | reserved cell =>
    obtain ⟨hcell, -⟩ : 7 ≤ cell ∧ cellFits cellW cell = true := by simpa [Combo.wellFormed] using hw
    exact decodeCombo_reserved hcell

/-- The cell of a literal operand is read back: `outOfRange` holds no cell of 0 to 7. -/
theorem decodeLiteral_encodeLiteral {cellW : Nat} {op : Literal} (hw : op.wellFormed cellW = true) :
    decodeLiteral (encodeLiteral op) = op := by
  cases op with
  | num n => fin_cases n <;> rfl
  | outOfRange cell =>
    obtain ⟨hcell, -⟩ : 8 ≤ cell ∧ cellFits cellW cell = true := by simpa [Literal.wellFormed] using hw
    exact decodeLiteral_outOfRange hcell

/-- Settles O3: the opcode cell selects the row again, and the operand cell is read back by its kind. -/
theorem encodeThenDecode : Obligations.EncodeThenDecode := by
  intro cellW i hw
  cases i with
  | adv op => exact congrArg (Decoded.instr ∘ Instr.adv) (decodeCombo_encodeCombo hw)
  | bxl op => exact congrArg (Decoded.instr ∘ Instr.bxl) (decodeLiteral_encodeLiteral hw)
  | bst op => exact congrArg (Decoded.instr ∘ Instr.bst) (decodeCombo_encodeCombo hw)
  | jnz op => exact congrArg (Decoded.instr ∘ Instr.jnz) (decodeLiteral_encodeLiteral hw)
  | bxc cell => rfl
  | out op => exact congrArg (Decoded.instr ∘ Instr.out) (decodeCombo_encodeCombo hw)
  | bdv op => exact congrArg (Decoded.instr ∘ Instr.bdv) (decodeCombo_encodeCombo hw)
  | cdv op => exact congrArg (Decoded.instr ∘ Instr.cdv) (decodeCombo_encodeCombo hw)

/-! ### Every Step has a next state (R43, R76) -/

theorem decode_of_lt_eight {opc : Nat} (h : opc < 8) (opd : Nat) : ∃ i, decode opc opd = .instr i := by
  interval_cases opc <;> exact ⟨_, rfl⟩

/-- The read of the pair is never past LEN: the halt check stands before it. -/
theorem step_next (s : State) : ∃ t, step s = .next t := by
  by_cases hrun : s.status = .running
  · by_cases hlt : s.pc + 1 < s.prog.length
    · obtain ⟨opc, hopc⟩ : ∃ opc, s.prog[s.pc]? = some opc := ⟨_, List.getElem?_eq_getElem (by omega)⟩
      obtain ⟨opd, hopd⟩ : ∃ opd, s.prog[s.pc + 1]? = some opd := ⟨_, List.getElem?_eq_getElem hlt⟩
      by_cases hbig : 8 ≤ opc
      · exact ⟨_, step_of_eight_le hrun hopc hopd hbig⟩
      · obtain ⟨i, hdec⟩ := decode_of_lt_eight (Nat.not_le.1 hbig) opd
        rw [step_of_decode hrun hopc hopd hdec]
        exact exec_next i _
    · exact ⟨_, step_of_atEnd hrun (Nat.not_lt.1 hlt)⟩
  · exact ⟨_, step_of_not_running hrun⟩

/-- Settles O25: by the kind of state a Step starts from; for one instruction it is the model's own law. -/
theorem everyStepAnswersNext : Obligations.EveryStepAnswersNext := ⟨step_next, exec_next⟩

/-! ### The Program and the parameters (R32) -/

/-- Settles O29: no effect and no operation changes them, and so no sequence of operations does. -/
theorem programNeverChanges : Obligations.ProgramNeverChanges := by
  refine ⟨fun i s t => exec_keeps_config, fun ops s t h => ?_⟩
  refine performAll_keeps (P := fun u => u.prog = s.prog ∧ u.params = s.params) (fun op _ u u' hu hp => ?_)
    ⟨rfl, rfl⟩ h
  obtain ⟨hprog, hparams⟩ := perform_keeps_config hp
  exact ⟨hprog.trans hu.1, hparams.trans hu.2⟩

/-! ### The sink is written and never read (R34, R37, R80) -/

/-- The state with other contents in its sink. -/
def withSink (contents : List OutVal) (s : State) : State := { s with sink := contents }

/-- From `s` to `t` the action `f` appends a sequence to the sink; and whatever the sink held before, it leads to `t`
with the same sequence appended to that. -/
def AppendsToAnySink (f : State → Host.Outcome State Fault Refusal) (s t : State) : Prop :=
  ∃ emitted, t.sink = s.sink ++ emitted ∧ ∀ other, f (withSink other s) = .next (withSink (other ++ emitted) t)

/-- What leaves the sink alone, whatever it holds, appends the empty sequence. -/
theorem appendsToAnySink_of_same_sink {f : State → Host.Outcome State Fault Refusal} {s t : State}
    (hsink : t.sink = s.sink) (hf : ∀ other, f (withSink other s) = .next (withSink other t)) :
    AppendsToAnySink f s t :=
  ⟨[], by rw [hsink, List.append_nil], fun other => by rw [hf, List.append_nil]⟩

theorem exec_jnz_of_zero {s : State} (n : Fin 8) (hA : s.regA = 0) : exec (.jnz (.num n)) s = .next s := by
  simp [exec, execJnz, resolveLiteral, withOperand, hA]

/-- No effect looks at the sink, and only OUT with a value appends to it (R101). -/
theorem exec_appendsToAnySink {i : Instr} {s t : State} (h : exec i s = .next t) :
    AppendsToAnySink (exec i) s t := by
  cases i with
  | adv op | bxl op | bst op | bdv op | cdv op =>
    cases op <;> cases h <;> exact appendsToAnySink_of_same_sink rfl fun _ => rfl
  | bxc cell => cases h; exact appendsToAnySink_of_same_sink rfl fun _ => rfl
  | out op =>
    cases op with
    | num n => cases h; exact ⟨[portValue n.val], rfl, fun _ => rfl⟩
    | reg r => cases h; exact ⟨[portValue (readReg r s)], rfl, fun _ => rfl⟩
    | reserved cell => cases h; exact appendsToAnySink_of_same_sink rfl fun _ => rfl
  | jnz op =>
    cases op with
    | outOfRange cell => cases h; exact appendsToAnySink_of_same_sink rfl fun _ => rfl
    | num n =>
      by_cases hA : s.regA = 0
      · cases (exec_jnz_of_zero n hA).symm.trans h
        exact appendsToAnySink_of_same_sink rfl fun other => exec_jnz_of_zero (s := withSink other s) n hA
      · cases (exec_jnz_of_ne_zero n hA).symm.trans h
        exact appendsToAnySink_of_same_sink rfl fun other => exec_jnz_of_ne_zero (s := withSink other s) n hA

theorem step_appendsToAnySink {s t : State} (h : step s = .next t) : AppendsToAnySink step s t := by
  rcases step_cases h with
    ⟨hrun, rfl⟩ | ⟨hrun, hend, rfl⟩ | ⟨hrun, opc, opd, hopc, hopd, ⟨hbig, rfl⟩ | ⟨i, hdec, hexec⟩⟩
  · exact appendsToAnySink_of_same_sink rfl fun other => step_of_not_running (s := withSink other t) hrun
  · exact appendsToAnySink_of_same_sink rfl fun other => step_of_atEnd (s := withSink other s) hrun hend
  · exact appendsToAnySink_of_same_sink rfl fun other =>
      step_of_eight_le (s := withSink other s) hrun hopc hopd hbig
  · obtain ⟨emitted, hsink, hother⟩ := exec_appendsToAnySink hexec
    exact ⟨emitted, hsink, fun other =>
      (step_of_decode (s := withSink other s) hrun hopc hopd hdec).trans (hother other)⟩

theorem run_succ_of_not_running {s : State} (h : s.status ≠ .running) (n : Nat) : run (n + 1) s = .next s := if_neg h

theorem run_succ_of_step {s u : State} (hrun : s.status = .running) (h : step s = .next u) (n : Nat) :
    run (n + 1) s = run n u := by
  simp [run, hrun, h]

theorem run_appendsToAnySink {n : Nat} {s t : State} (h : run n s = .next t) : AppendsToAnySink (run n) s t := by
  induction n generalizing s with
  | zero => cases h; exact appendsToAnySink_of_same_sink rfl fun _ => rfl
  | succ n ih =>
    by_cases hrun : s.status = .running
    · obtain ⟨u, hu⟩ := step_next s
      rw [run_succ_of_step hrun hu] at h
      obtain ⟨first, hfirst, hstep⟩ := step_appendsToAnySink hu
      obtain ⟨rest, hrest, hrest'⟩ := ih h
      refine ⟨first ++ rest, by rw [hrest, hfirst, List.append_assoc], fun other => ?_⟩
      calc run (n + 1) (withSink other s)
          = run n (withSink (other ++ first) u) := run_succ_of_step (s := withSink other s) hrun (hstep other) n
        _ = .next (withSink (other ++ first ++ rest) t) := hrest' _
        _ = .next (withSink (other ++ (first ++ rest)) t) := by rw [List.append_assoc]
    · cases (run_succ_of_not_running hrun n).symm.trans h
      exact appendsToAnySink_of_same_sink rfl fun other =>
        run_succ_of_not_running (s := withSink other t) hrun n

/-- Settles O33: by induction on the budget, from one Step, which appends to whatever the sink holds. -/
theorem sinkContentsNeverMatter : Obligations.SinkContentsNeverMatter := fun _ _ _ => run_appendsToAnySink

/-! ### The driver's hold on the sink (R34, R37, R139) -/

/-- The rows of R54 that have a value. -/
theorem resolveCombo_decodeCombo_value {opd : Nat} (h : opd ≤ 6) (s : State) :
    ∃ v, resolveCombo (decodeCombo opd) s = .value v := by
  interval_cases opd <;> exact ⟨_, rfl⟩

theorem exec_out_of_value {op : Combo} {s : State} {v : Nat} (h : resolveCombo op s = .value v) :
    exec (.out op) s = .next (emit (portValue v) s) := by
  rw [exec, execOut, h, withOperand]

/-- Settles O56: reading and swapping are the operations' definitions; the Step emits on the advanced state. -/
theorem driverReadsAndSwapsSink : Obligations.DriverReadsAndSwapsSink := by
  refine ⟨fun s => ⟨rfl, rfl⟩, fun s vs => ⟨_, rfl, rfl, rfl⟩, fun s opd hrun hopc hopd hle => ?_⟩
  obtain ⟨v, hv⟩ := resolveCombo_decodeCombo_value hle (advancePc s)
  exact ⟨emit (portValue v) (advancePc s), portValue v,
    (step_of_decode (opd := opd) hrun hopc hopd rfl).trans (exec_out_of_value hv), rfl⟩

/-! ### Instances side by side (R47, R116, R121) -/

theorem performAt_of_perform {k : Nat} {op : DriverOp} {sys : System} {s s' : State} (hk : sys[k]? = some s)
    (h : perform op s = .next s') : performAt k op sys = .next (sys.set k s') := by
  simp [performAt, hk, h]

/-- Settles O53: each operation replaces one place of the list from that place alone. -/
theorem instancesAreIndependent : Obligations.InstancesAreIndependent := by
  refine ⟨fun sys sys₁ sys₂ j k op₁ op₂ hjk h₁ h₂ => ?_, fun sys sys' j k op hjk h => ?_⟩
  · obtain ⟨s, s', hs, hperf, rfl⟩ := performAt_cases h₁
    obtain ⟨u, u', hu, hperf', rfl⟩ := performAt_cases h₂
    rw [List.getElem?_set_ne hjk] at hu
    have hs' : (sys.set k u')[j]? = some s := by rw [List.getElem?_set_ne hjk.symm, hs]
    refine ⟨sys.set k u', performAt_of_perform hu hperf', ?_⟩
    rw [performAt_of_perform hs' hperf, List.set_comm _ _ hjk]
  · obtain ⟨s, s', -, -, rfl⟩ := performAt_cases h
    exact List.getElem?_set_ne hjk

end Sys2Proof.Machine
end

section
/-! SUPPORT. The family of spec/30_encoding.md: the table's words and the operands a cell stands for (R51 to R59), what a
Running instance does with every pair (R60, R62, R111), and the assembly lines (R63). -/
namespace Sys2Proof.Machine

/-! ### The rows of the opcode table and their operands (R51 to R59) -/

/-- Settles O1: the decoder computes each row's instruction from its word. -/
theorem tableWordsDecode : Obligations.TableWordsDecode := ⟨rfl, rfl, rfl, rfl, rfl, rfl, rfl, rfl⟩

/-- Settles O2: a row of the opcode map for each opcode, whatever the operand cell; above 7 the map has none. -/
theorem opcodeAloneSelectsInstruction : Obligations.OpcodeAloneSelectsInstruction := by
  intro opc opd
  refine ⟨?adv, ?bxl, ?bst, ?jnz, ?bxc, ?out, ?bdv, ?cdv, fun hopc => decode_rejected hopc opd⟩
  case bxc => rintro rfl; rfl
  all_goals rintro rfl; exact ⟨_, rfl⟩

/-- Settles O8: the rows with a value by computation, the cells without one through `reserved`. -/
theorem comboMultiplexer : Obligations.ComboMultiplexer := by
  refine fun s => ⟨rfl, rfl, rfl, rfl, rfl, rfl, rfl, fun opd hopd => ?_⟩
  rw [decodeCombo_reserved hopd, resolveCombo]

/-- Settles O9: the eight literals by computation, the cells above 7 through `outOfRange`. -/
theorem literalIsRawValue : Obligations.LiteralIsRawValue := by
  refine fun opd => ⟨fun hopd => ?_, fun hopd => ?_⟩
  · interval_cases opd <;> rfl
  · rw [decodeLiteral_outOfRange hopd, resolveLiteral]

/-! ### Encoding what was decoded (R51, R57) -/

@[simp] theorem encodeCombo_decodeCombo (opd : Nat) : encodeCombo (decodeCombo opd) = opd := by
  by_cases hopd : 7 ≤ opd
  · rw [decodeCombo_reserved hopd, encodeCombo]
  · interval_cases opd <;> rfl

@[simp] theorem encodeLiteral_decodeLiteral (opd : Nat) : encodeLiteral (decodeLiteral opd) = opd := by
  by_cases hopd : 8 ≤ opd
  · rw [decodeLiteral_outOfRange hopd, encodeLiteral]
  · interval_cases opd <;> rfl

/-- Settles O4: by the row that was read; its operand cell is the one the decoded operand encodes to. -/
theorem decodeThenEncode : Obligations.DecodeThenEncode := by
  intro opc opd i h
  rcases decode_cases h with
    ⟨rfl, rfl⟩ | ⟨rfl, rfl⟩ | ⟨rfl, rfl⟩ | ⟨rfl, rfl⟩ | ⟨rfl, rfl⟩ | ⟨rfl, rfl⟩ | ⟨rfl, rfl⟩ | ⟨rfl, rfl⟩ <;>
    simp [encode]

/-! ### A fetched pair runs or raises (R60, R62, R111) -/

theorem exec_of_instrCause_none {i : Instr} {s t : State} (h : exec i s = .next t) (hi : instrCause i = .none) :
    t.status = s.status ∧ t.cause = s.cause := by
  rcases exec_effect h with ⟨r, v, -, rfl, -, -⟩ | ⟨n, -, -, rfl⟩ | ⟨-, -, rfl⟩ | ⟨v, rfl⟩ | ⟨cell, -, hraise⟩
  · simp
  · simp
  · simp
  · simp
  · rw [hi] at hraise
    cases hraise

/-- An instruction with an error does nothing but fault entry, and the error is InvalidOperand. -/
theorem exec_of_instrCause_ne_none {i : Instr} (hi : instrCause i ≠ .none) (s : State) :
    exec i s = .next { s with status := .faulted, cause := instrCause i } := by
  cases i with
  | adv op | bst op | out op | bdv op | cdv op =>
    cases op with
    | num n => exact absurd rfl hi
    | reg r => exact absurd rfl hi
    | reserved cell => rfl
  | bxl op | jnz op =>
    cases op with
    | num n => exact absurd rfl hi
    | outOfRange cell => rfl
  | bxc cell => exact absurd rfl hi

section
variable {s : State} {opc opd : Nat} (hrun : s.status = .running) (hopc : s.prog[s.pc]? = some opc)
  (hopd : s.prog[s.pc + 1]? = some opd)
include hrun hopc hopd

/-- A Step on a pair that R60 counts as legal leaves STATUS Running and CAUSE alone. -/
theorem step_of_legal_pair (hcause : pairCause opc opd = .none) :
    ∃ t, step s = .next t ∧ t.status = .running ∧ t.cause = s.cause := by
  by_cases hbig : 8 ≤ opc
  · rw [pairCause_of_eight_le hbig] at hcause
    cases hcause
  · obtain ⟨i, hdec⟩ := decode_of_lt_eight (Nat.not_le.1 hbig) opd
    obtain ⟨t, hexec⟩ := exec_next i (advancePc s)
    obtain ⟨hstatus, hkept⟩ := exec_of_instrCause_none hexec ((pairCause_eq_instrCause hdec).symm.trans hcause)
    exact ⟨t, (step_of_decode hrun hopc hopd hdec).trans hexec, hstatus.trans hrun, hkept⟩

/-- A Step on a pair with an error is fault entry on the advanced pc (R110). -/
theorem step_of_raising_pair {c : Cause} (hcause : pairCause opc opd = c) (hc : c ≠ .none) :
    step s = .next { s with pc := s.pc + 2, status := .faulted, cause := c } := by
  subst hcause
  by_cases hbig : 8 ≤ opc
  · rw [step_of_eight_le hrun hopc hopd hbig, pairCause_of_eight_le hbig]
    rfl
  · obtain ⟨i, hdec⟩ := decode_of_lt_eight (Nat.not_le.1 hbig) opd
    rw [pairCause_eq_instrCause hdec] at hc ⊢
    exact (step_of_decode hrun hopc hopd hdec).trans (exec_of_instrCause_ne_none hc _)

end

/-- The table of R60 as the decoder's order of checks (R62, R111). -/
theorem pairCause_eq_checks (opc opd : Nat) :
    pairCause opc opd =
      if 7 < opc then .invalidOpcode
      else if opc = 4 then .none
      else if 7 < opd then .invalidOperand
      else if opc = 1 ∨ opc = 3 then .none
      else if opd = 7 then .invalidOperand
      else .none := by
  by_cases hbig : 7 < opc
  · rw [pairCause_of_eight_le hbig, if_pos hbig]
  · have hcombo : (if 7 ≤ opd then Cause.invalidOperand else .none) =
        if 7 < opd then .invalidOperand else if opd = 7 then .invalidOperand else .none := by
      grind
    interval_cases opc <;> simp [pairCause, operandKind, hcombo]

/-- Settles O6: the outcome of each check is the pair's error, which decides what the Step does. -/
theorem everyPairRunsOrRaises : Obligations.EveryPairRunsOrRaises := by
  intro s opc opd hrun hopc hopd
  have hcause := pairCause_eq_checks opc opd
  have hlegal := step_of_legal_pair hrun hopc hopd
  split_ifs at hcause ⊢
  · exact ⟨_, step_of_raising_pair hrun hopc hopd hcause nofun, rfl⟩
  · exact hlegal hcause
  · exact ⟨_, step_of_raising_pair hrun hopc hopd hcause nofun, rfl⟩
  · exact hlegal hcause
  · exact ⟨_, step_of_raising_pair hrun hopc hopd hcause nofun, rfl⟩
  · exact hlegal hcause

/-- The words of CELL_W = 3 that raise (R60). -/
theorem pairCause_tableWordCells {w : Nat} (hw : w < 64) :
    pairCause (tableWordCells 8 w).1 (tableWordCells 8 w).2 =
      if w ∈ [7, 23, 47, 55, 63] then .invalidOperand else .none := by
  revert w
  decide

/-- Settles O7: the placed pair is the one fetched, and its word tells whether it has an error. -/
theorem fiveOfSixtyFourWordsRaise : Obligations.FiveOfSixtyFourWordsRaise := by
  intro s w hw
  have hcause := pairCause_tableWordCells hw
  have hopc := placePair_cell_first s.prog s.pc (tableWordCells 8 w).1 (tableWordCells 8 w).2
  have hopd := placePair_cell_second s.prog s.pc (tableWordCells 8 w).1 (tableWordCells 8 w).2
  by_cases hmem : w ∈ [7, 23, 47, 55, 63]
  · rw [if_pos hmem] at hcause
    exact ⟨_, step_of_raising_pair (s := s.withFetchWord 8 w) rfl hopc hopd hcause nofun, fun _ => ⟨rfl, rfl⟩,
      absurd hmem⟩
  · rw [if_neg hmem] at hcause
    obtain ⟨t, hstep, hrun⟩ := step_of_legal_pair (s := s.withFetchWord 8 w) rfl hopc hopd hcause
    exact ⟨t, hstep, fun h => absurd h hmem, fun _ => hrun⟩

/-! ### Assembly lines (R63, R64) -/

theorem assembleLine_instr_eq_some_iff {m : Mnemonic} {o : AsmOperand} {cells : List Nat} :
    assembleLine (.instr m o) = some cells ↔ ∃ kind opd, operandKind m.opcode = some kind ∧
      assembleOperand kind o = some opd ∧ cells = [m.opcode, opd] := by
  cases hkind : operandKind m.opcode with
  | none => simp [assembleLine, hkind]
  | some kind => simp [assembleLine, hkind, eq_comm]

theorem comboCell_lt_seven (r : Reg) : r.comboCell < 7 := by
  cases r <;> decide

/-- A written operand that is accepted is one that R60 counts as legal for its kind. -/
theorem pairCause_of_assembleOperand {opc opd : Nat} {kind : OperandKind} {o : AsmOperand}
    (hkind : operandKind opc = some kind) (ho : assembleOperand kind o = some opd) : pairCause opc opd = .none := by
  cases kind with
  | ignored => simp [pairCause, hkind]
  | literal =>
    cases o with
    | digit n =>
      obtain ⟨hle, rfl⟩ : n ≤ 7 ∧ n = opd := by simpa [assembleOperand] using ho
      simp [pairCause, hkind, hle]
    | letter r | omitted => cases ho
  | combo =>
    cases o with
    | digit n =>
      obtain ⟨hle, rfl⟩ : n ≤ 3 ∧ n = opd := by simpa [assembleOperand] using ho
      simp [pairCause, hkind, show n < 7 by omega]
    | letter r =>
      cases ho
      simp [pairCause, hkind, comboCell_lt_seven]
    | omitted => cases ho

section
variable {o : AsmOperand}

theorem assembleOperand_comboOperandText {op : Combo} (h : comboOperandText op = some o) :
    assembleOperand .combo o = some (encodeCombo op) := by
  cases op with
  | num n => cases h; exact if_pos (by omega)
  | reg r => cases h; rfl
  | reserved cell => cases h

theorem assembleOperand_literalOperandText {op : Literal} (h : literalOperandText op = some o) :
    assembleOperand .literal o = some (encodeLiteral op) := by
  cases op with
  | num n => cases h; exact if_pos (by omega)
  | outOfRange cell => cases h

theorem assembleOperand_ignoredOperandText {cell : Nat} (h : ignoredOperandText cell = some o) :
    assembleOperand .ignored o = some cell := by
  unfold ignoredOperandText at h
  split_ifs at h with hzero hle
  · cases h; rw [hzero]; rfl
  · cases h; exact if_pos hle

end

/-- Where an instruction has a written form, the form assembles to the instruction's two cells. -/
theorem assembleLine_disassembleInstr {i : Instr} {line : AsmLine} (h : disassembleInstr i = some line) :
    assembleLine line = some [(encode i).1, (encode i).2] := by
  cases i with
  | adv op | bst op | out op | bdv op | cdv op =>
    obtain ⟨o, ho, rfl⟩ := Option.map_eq_some_iff.1 h
    exact assembleLine_instr_eq_some_iff.2 ⟨.combo, _, rfl, assembleOperand_comboOperandText ho, rfl⟩
  | bxl op | jnz op =>
    obtain ⟨o, ho, rfl⟩ := Option.map_eq_some_iff.1 h
    exact assembleLine_instr_eq_some_iff.2 ⟨.literal, _, rfl, assembleOperand_literalOperandText ho, rfl⟩
  | bxc cell =>
    obtain ⟨o, ho, rfl⟩ := Option.map_eq_some_iff.1 h
    exact assembleLine_instr_eq_some_iff.2 ⟨.ignored, _, rfl, assembleOperand_ignoredOperandText ho, rfl⟩

theorem assembleLine_disassemblePair (opc opd : Nat) : assembleLine (disassemblePair opc opd) = some [opc, opd] := by
  cases hdec : decode opc opd with
  | rejected e => simp [disassemblePair, hdec, assembleLine]
  | instr i =>
    cases hline : disassembleInstr i with
    | none => simp [disassemblePair, hdec, hline, assembleLine]
    | some line => simpa [disassemblePair, hdec, hline, decodeThenEncode _ _ _ hdec] using
        assembleLine_disassembleInstr hline

/-- Settles O55: a shown form assembles to the instruction's cells, which are the pair it was decoded from, and
`.cells` to its values; an accepted operand is in the range of its kind. -/
theorem assemblyRoundTrip : Obligations.AssemblyRoundTrip := by
  refine ⟨assembleLine_disassemblePair, fun m o cells h => ?_, rfl, rfl⟩
  obtain ⟨kind, opd, hkind, ho, rfl⟩ := assembleLine_instr_eq_some_iff.1 h
  exact ⟨opd, rfl, pairCause_of_assembleOperand hkind ho⟩

end Sys2Proof.Machine
end

section
/-! SUPPORT. The family of spec/40_step_cycle.md: the Step from each kind of state (R71 to R73), runs as repeated Steps
(R79), runs that end and runs that do not (R81, R95), and a run done again after Reset (R80, R129, R130). -/
namespace Sys2Proof.Machine

/-! ### One Step (R72, R73) -/

/-- Settles O20: fault entry on the advanced state writes the two fields named. -/
theorem stepRunsDecodedInstr : Obligations.StepRunsDecodedInstr := fun _ _ _ hrun hopc hopd =>
  ⟨fun _ hdec => step_of_decode hrun hopc hopd hdec, fun hbig => step_of_eight_le hrun hopc hopd hbig⟩

/-- Settles O22: "not pc + 1 < LEN" is the halt check. -/
theorem atEndStepOnlyHalts : Obligations.AtEndStepOnlyHalts := fun _ hrun hend =>
  step_of_atEnd hrun (Nat.not_lt.1 hend)

/-! ### Runs as sequences of Steps (R71, R79) -/

theorem performAll_cons_of_next {op : DriverOp} {s u : State} (h : perform op s = .next u) (ops : List DriverOp) :
    performAll (op :: ops) s = performAll ops u := by
  simp only [performAll, h]

theorem performAll_steps_succ {s u : State} (h : step s = .next u) (n : Nat) :
    performAll (List.replicate (n + 1) .step) s = performAll (List.replicate n .step) u :=
  performAll_cons_of_next (op := .step) h _

/-- A state that one Step leaves as it is, no number of Steps changes. -/
theorem performAll_steps_of_fixed {s : State} (h : step s = .next s) (n : Nat) :
    performAll (List.replicate n .step) s = .next s := by
  induction n with
  | zero => rfl
  | succ n ih => rw [performAll_steps_succ h, ih]

/-- A run stops stepping when STATUS is not Running; the Steps it leaves out are no-ops (R71). -/
theorem run_eq_performAll_steps (n : Nat) (s : State) : run n s = performAll (List.replicate n .step) s := by
  induction n generalizing s with
  | zero => rfl
  | succ n ih =>
    by_cases hrun : s.status = .running
    · obtain ⟨u, hu⟩ := step_next s
      rw [run_succ_of_step hrun hu, performAll_steps_succ hu, ih]
    · rw [run_succ_of_not_running hrun, performAll_steps_of_fixed (step_of_not_running hrun)]

theorem core_run_succ_of_step {s u : State} (h : step s = .next u) (n : Nat) :
    Sys2Proof.core.run (n + 1) s = Sys2Proof.core.run n u := by
  have hstep : Sys2Proof.core.step s = .next u := h
  simp only [Host.Core.run, hstep]

theorem core_run_eq_performAll_steps (n : Nat) (s : State) :
    Sys2Proof.core.run n s = performAll (List.replicate n .step) s := by
  induction n generalizing s with
  | zero => rfl
  | succ n ih =>
    obtain ⟨u, hu⟩ := step_next s
    rw [core_run_succ_of_step hu, performAll_steps_succ hu, ih]

/-- Settles O21: a state that is not Running is one that a Step leaves as it is. -/
theorem stoppedStepsChangeNothing : Obligations.StoppedStepsChangeNothing := fun _ h =>
  ⟨step_of_not_running h, performAll_steps_of_fixed (step_of_not_running h)⟩

/-- Settles O28: both runs are the sequence of n Steps. -/
theorem runIsRepeatedStep : Obligations.RunIsRepeatedStep := fun n s =>
  ⟨run_eq_performAll_steps n s, (run_eq_performAll_steps n s).trans (core_run_eq_performAll_steps n s).symm⟩

/-! ### Runs that end, and runs that do not (R81, R85, R95) -/

theorem run_of_fixed {s : State} (h : step s = .next s) (n : Nat) : run n s = .next s :=
  (run_eq_performAll_steps n s).trans (performAll_steps_of_fixed h n)

/-- A run that makes its first Step where nothing is fetched ends there. -/
theorem run_succ_stops_of_no_fetch {s : State} (hno : ¬ (s.status = .running ∧ s.pc + 1 < s.prog.length)) (n : Nat) :
    ∃ t, run (n + 1) s = .next t ∧ t.status ≠ .running := by
  by_cases hrun : s.status = .running
  · have hend : s.prog.length ≤ s.pc + 1 := Nat.not_lt.1 fun hlt => hno ⟨hrun, hlt⟩
    have hhalted : (halt s).status ≠ .running := by simp
    exact ⟨halt s, (run_succ_of_step hrun (step_of_atEnd hrun hend) n).trans
      (run_of_fixed (step_of_not_running hhalted) n), hhalted⟩
  · exact ⟨s, run_succ_of_not_running hrun n, hrun⟩

/-- With A = 0 no branch is taken, so every fetch moves pc on. -/
theorem step_pc_of_regA_zero {s t : State} (hrun : s.status = .running) (hlt : s.pc + 1 < s.prog.length)
    (hA : s.regA = 0) (h : step s = .next t) : t.pc = s.pc + 2 :=
  step_pc_of_not_taken hrun (List.getElem?_eq_getElem (by omega)) (List.getElem?_eq_getElem hlt)
    (fun ⟨_, _, hne⟩ => hne hA) h

theorem run_ends_of_regA_zero {n : Nat} {s : State} (hA : s.regA = 0) (hlen : s.prog.length ≤ s.pc + 2 * n) :
    ∃ t, run (n + 1) s = .next t ∧ t.status ≠ .running := by
  induction n generalizing s with
  | zero => exact run_succ_stops_of_no_fetch (fun ⟨_, hlt⟩ => by omega) 0
  | succ n ih =>
    by_cases hfetch : s.status = .running ∧ s.pc + 1 < s.prog.length
    · obtain ⟨hrun, hlt⟩ := hfetch
      obtain ⟨u, hu⟩ := step_next s
      have huA : u.regA = 0 := Nat.le_zero.1 (hA ▸ step_regA_le hu)
      have hulen : u.prog.length ≤ u.pc + 2 * n := by
        rw [(step_keeps_config hu).1, step_pc_of_regA_zero hrun hlt hA hu]
        omega
      rw [run_succ_of_step hrun hu]
      exact ih huA hulen
    · exact run_succ_stops_of_no_fetch hfetch (n + 1)

/-- Settles O40: each Step uses up a pair or ends the run, and A never grows. -/
theorem runWithZeroAEnds : Obligations.RunWithZeroAEnds := by
  intro n s hA hlen
  obtain ⟨t, hrun, hstopped⟩ := run_ends_of_regA_zero hA hlen
  exact ⟨t, hrun, hstopped, Nat.le_zero.1 (hA ▸ runNeverIncreasesA _ s t hrun)⟩

theorem decode_jnz_of_le_seven {n : Nat} (h : n ≤ 7) :
    decode 3 n = .instr (.jnz (.num ⟨n, Nat.lt_succ_of_le h⟩)) := by
  interval_cases n <;> rfl

/-- A taken branch overwrites the advanced pc and does nothing else (R95). -/
theorem step_of_taken {s : State} {n : Nat} (hrun : s.status = .running) (hopc : s.prog[s.pc]? = some 3)
    (hopd : s.prog[s.pc + 1]? = some n) (hn : n ≤ 7) (hA : s.regA ≠ 0) : step s = .next (setPc n s) :=
  (step_of_decode hrun hopc hopd (decode_jnz_of_le_seven hn)).trans (exec_jnz_of_ne_zero (s := advancePc s) _ hA)

/-- Settles O41: the branch sets pc to what it was. -/
theorem selfBranchNeverEnds : Obligations.SelfBranchNeverEnds := fun _ hrun hopc hopd hpc hA =>
  run_of_fixed (step_of_taken hrun hopc hopd hpc hA)

/-! ### A run done again (R25, R80, R129, R130) -/

theorem perform_setReg_of_fits {s : State} {v : Nat} (r : Reg) (h : fitsWidth s.params.regW v = true) :
    perform (.setReg r (Int.ofNat v)) s = .next (writeReg r v s) := by
  simp [perform, setReg, checkReg, h]

theorem run_keeps_config {n : Nat} {s t : State} (h : run n s = .next t) :
    t.prog = s.prog ∧ t.params = s.params :=
  programNeverChanges.2 _ s t ((run_eq_performAll_steps n s).symm.trans h)

theorem performAll_setRegs_reset {s : State} {a b c : Nat} (ha : fitsWidth s.params.regW a = true)
    (hb : fitsWidth s.params.regW b = true) (hc : fitsWidth s.params.regW c = true) :
    performAll [.setReg .A (Int.ofNat a), .setReg .B (Int.ofNat b), .setReg .C (Int.ofNat c), .reset] s
      = .next { s with regA := a, regB := b, regC := c, pc := 0, status := .running, cause := .none } := by
  have hb' : fitsWidth (writeReg .A a s).params.regW b = true := hb
  have hc' : fitsWidth (writeReg .B b (writeReg .A a s)).params.regW c = true := hc
  rw [performAll_cons_of_next (perform_setReg_of_fits .A ha), performAll_cons_of_next (perform_setReg_of_fits .B hb'),
    performAll_cons_of_next (perform_setReg_of_fits .C hc')]
  rfl

/-- Along a run, the registers of the start and Reset give the start again, with the sink as the run left it. -/
theorem performAll_setRegs_reset_of_run {n : Nat} {s t : State} (hfit : registersFit s) (hpc : s.pc = 0)
    (hrun : s.status = .running) (hcause : s.cause = .none) (h : run n s = .next t) :
    performAll [.setReg .A (Int.ofNat s.regA), .setReg .B (Int.ofNat s.regB), .setReg .C (Int.ofNat s.regC), .reset] t
      = .next (withSink t.sink s) := by
  obtain ⟨hprog, hparams⟩ := run_keeps_config h
  have hfit' (r : Reg) : fitsWidth t.params.regW (readReg r s) = true := hparams ▸ hfit r
  refine (performAll_setRegs_reset (hfit' .A) (hfit' .B) (hfit' .C)).trans ?_
  simp [withSink, hpc, hrun, hcause, hprog, hparams]

/-- Settles O50: Reset leads back to the start with the later sink, and no run depends on what the sink holds. -/
theorem resetReproducesRun : Obligations.ResetReproducesRun := by
  intro n s t hfit hpc hrun hcause h
  obtain ⟨emitted, hsink, hother⟩ := run_appendsToAnySink h
  exact ⟨emitted, withSink t.sink s, hsink, performAll_setRegs_reset_of_run hfit hpc hrun hcause h, hother t.sink⟩

end Sys2Proof.Machine
end

section
/-! SUPPORT. The family of spec/41_divide.md: floor division by a power of two (R85), and the three divide instructions
as one instruction with a destination register (R86 to R88). -/
namespace Sys2Proof.Machine

/-! ### The shift (R9, R85) -/

/-- Where the shift is cut short, the dividend is below the divisor. -/
theorem shiftDown_eq_div (v k : Nat) : shiftDown v k = v / 2 ^ k := by
  unfold shiftDown
  split
  · next h => exact (Nat.div_eq_of_lt ((bitLength_le_iff v k).1 h)).symm
  · exact Nat.shiftRight_eq_div_pow v k

theorem shiftDown_eq_zero_of_lt {v k : Nat} (h : v < 2 ^ k) : shiftDown v k = 0 := if_pos ((bitLength_le_iff v k).2 h)

/-! ### A combo operand with a value (R54) -/

/-- The value of a legal operand cell is its row of R54's table. -/
theorem resolveCombo_decodeCombo_row {opd : Nat} (h : opd ≤ 6) (s : State) :
    ∃ val, [0, 1, 2, 3, s.regA, s.regB, s.regC][opd]? = some val ∧ resolveCombo (decodeCombo opd) s = .value val := by
  interval_cases opd <;> exact ⟨_, rfl, rfl⟩

@[simp] theorem resolveCombo_advancePc (op : Combo) (s : State) : resolveCombo op (advancePc s) = resolveCombo op s :=
  resolveCombo_congr fun r => readReg_advancePc r s

/-! ### The divide instruction of a destination register (R86 to R88) -/

/-- ADV, BDV or CDV, by the register it writes. -/
def divideInstr : Reg → Combo → Instr
  | .A => .adv
  | .B => .bdv
  | .C => .cdv

/-- The opcode of the divide instruction that writes a register (R57). -/
def divideOpcode : Reg → Nat
  | .A => 0
  | .B => 6
  | .C => 7

theorem exec_divideInstr (dst : Reg) (op : Combo) (s : State) :
    exec (divideInstr dst op) s = withOperand (resolveCombo op s) (divideInto dst) s := by
  cases dst <;> rfl

theorem decode_divideOpcode (dst : Reg) (opd : Nat) :
    decode (divideOpcode dst) opd = .instr (divideInstr dst (decodeCombo opd)) := by
  cases dst <;> rfl

theorem encode_divideInstr (dst : Reg) (op : Combo) :
    encode (divideInstr dst op) = (divideOpcode dst, encodeCombo op) := by
  cases dst <;> rfl

theorem exec_divideInstr_of_value {op : Combo} {s : State} {val : Nat} (dst : Reg)
    (h : resolveCombo op s = .value val) :
    exec (divideInstr dst op) s = .next (writeReg dst (s.regA / 2 ^ val) s) := by
  rw [exec_divideInstr, h, withOperand, divideInto, readReg_A, shiftDown_eq_div]

theorem exec_divideInstr_of_seven_le {opd : Nat} (dst : Reg) (h : 7 ≤ opd) (s : State) :
    exec (divideInstr dst (decodeCombo opd)) s = .next { s with status := .faulted, cause := .invalidOperand } := by
  rw [exec_divideInstr, decodeCombo_reserved h]
  rfl

/-- With operand A the divisor is 2^A, above A. -/
theorem exec_divideInstr_regA (dst : Reg) (s : State) :
    exec (divideInstr dst (.reg .A)) s = .next (writeReg dst 0 s) := by
  rw [exec_divideInstr_of_value (val := s.regA) dst rfl, Nat.div_eq_of_lt Nat.lt_two_pow_self]

/-- With operand 0 the divisor is 1. -/
theorem exec_divideInstr_zero (dst : Reg) (s : State) :
    exec (divideInstr dst (.num 0)) s = .next (writeReg dst s.regA s) := by
  rw [exec_divideInstr_of_value (val := 0) dst rfl, Nat.pow_zero, Nat.div_one]

/-- R86 to R88 in one, for every destination: encoding, effect, the operand that raises, the whole Step, and the corner
cases. -/
theorem divideInstr_spec (dst : Reg) (s : State) (opd : Nat) :
    decode (divideOpcode dst) opd = .instr (divideInstr dst (decodeCombo opd)) ∧
    encode (divideInstr dst (decodeCombo opd)) = (divideOpcode dst, opd) ∧
    (opd ≤ 6 → ∃ val, [0, 1, 2, 3, s.regA, s.regB, s.regC][opd]? = some val ∧
      exec (divideInstr dst (decodeCombo opd)) s = .next (writeReg dst (s.regA / 2 ^ val) s) ∧
      (s.status = .running → s.prog.cell s.pc = some (divideOpcode dst) → s.prog.cell (s.pc + 1) = some opd →
        step s = .next (writeReg dst (s.regA / 2 ^ val) (advancePc s)))) ∧
    (7 ≤ opd →
      exec (divideInstr dst (decodeCombo opd)) s = .next { s with status := .faulted, cause := .invalidOperand } ∧
      (s.status = .running → s.prog.cell s.pc = some (divideOpcode dst) → s.prog.cell (s.pc + 1) = some opd →
        step s = .next { s with pc := s.pc + 2, status := .faulted, cause := .invalidOperand })) ∧
    exec (divideInstr dst (.reg .A)) s = .next (writeReg dst 0 s) ∧
    exec (divideInstr dst (.num 0)) s = .next (writeReg dst s.regA s) := by
  have hdec := decode_divideOpcode dst opd
  refine ⟨hdec, by simp [encode_divideInstr], fun hle => ?value, fun hge => ?raises,
    exec_divideInstr_regA dst s, exec_divideInstr_zero dst s⟩
  case value =>
    obtain ⟨val, hrow, hval⟩ := resolveCombo_decodeCombo_row hle s
    refine ⟨val, hrow, exec_divideInstr_of_value dst hval, fun hrun hopc hopd => ?_⟩
    have hval' : resolveCombo (decodeCombo opd) (advancePc s) = .value val := by simpa using hval
    exact (step_of_decode hrun hopc hopd hdec).trans (exec_divideInstr_of_value dst hval')
  case raises =>
    exact ⟨exec_divideInstr_of_seven_le dst hge s, fun hrun hopc hopd =>
      (step_of_decode hrun hopc hopd hdec).trans (exec_divideInstr_of_seven_le dst hge (advancePc s))⟩

/-! ### The obligations -/

/-- Settles O10: the shift is the division, and a dividend below 2^w is below every later power of two. -/
theorem shiftIsFloorDivision : Obligations.ShiftIsFloorDivision := by
  refine ⟨fun a k => ⟨shiftDown_eq_div a k, ?shiftRight, shiftDown_le a k, ?zeroAmount, ?zeroDividend,
      shiftDown_eq_zero_of_lt, fun w ha hw => ?width⟩,
    fun s op val h => ⟨exec_divideInstr_of_value .A h, exec_divideInstr_of_value .B h, exec_divideInstr_of_value .C h⟩⟩
  case shiftRight => rw [shiftDown_eq_div, Nat.shiftRight_eq_div_pow]
  case zeroAmount => rw [shiftDown_eq_div, Nat.pow_zero, Nat.div_one]
  case zeroDividend => exact shiftDown_eq_zero_of_lt (Nat.two_pow_pos k)
  case width => exact shiftDown_eq_zero_of_lt (ha.trans_le (Nat.pow_le_pow_right (by decide) hw))

/-- Settles O12: the divide instruction with destination A. -/
theorem advDividesA : Obligations.AdvDividesA := divideInstr_spec .A

/-- Settles O13: the divide instruction with destination B. -/
theorem bdvDividesAIntoB : Obligations.BdvDividesAIntoB := divideInstr_spec .B

/-- Settles O14: the divide instruction with destination C. -/
theorem cdvDividesAIntoC : Obligations.CdvDividesAIntoC := divideInstr_spec .C

end Sys2Proof.Machine
end

section
/-! SUPPORT. The family of spec/42_bitwise.md: the bits of the exclusive or and of the low three bits (R93), and BXL,
BST and BXC as writes of register B (R90 to R92). -/
namespace Sys2Proof.Machine

/-! ### Bits (R9, R93) -/

theorem testBit_bitXor (a b i : Nat) : (bitXor a b).testBit i = (a.testBit i ^^ b.testBit i) := Nat.testBit_xor ..

/-- A literal has no bit from bit 3 on. -/
theorem testBit_bitXor_of_lt_eight {k i : Nat} (hk : k < 8) (hi : 3 ≤ i) (a : Nat) :
    (bitXor a k).testBit i = a.testBit i := by
  have hbit : k.testBit i = false := Nat.testBit_lt_two_pow (hk.trans_le (Laws.EncodeFits.eight_le_two_pow hi))
  rw [testBit_bitXor, hbit, Bool.xor_false]

theorem bitXor_bitXor_cancel (a b : Nat) : bitXor (bitXor a b) b = a := Nat.xor_xor_cancel_right a b

/-- The modulus of `low3` is 2^3. -/
theorem testBit_low3 (v i : Nat) : (low3 v).testBit i = (decide (i < 3) && v.testBit i) := Nat.testBit_mod_two_pow v 3 i

theorem low3_eq_self {v : Nat} (h : v < 8) : low3 v = v := Nat.mod_eq_of_lt h

/-! ### Operands with a value (R53, R54) -/

theorem decodeLiteral_of_le_seven {opd : Nat} (h : opd ≤ 7) :
    decodeLiteral opd = .num ⟨opd, Nat.lt_succ_of_le h⟩ := by
  interval_cases opd <;> rfl

theorem resolveCombo_decodeCombo_of_le_three {opd : Nat} (h : opd ≤ 3) (s : State) :
    resolveCombo (decodeCombo opd) s = .value opd := by
  interval_cases opd <;> rfl

/-! ### An operand that raises (R55, R59, R75) -/

/-- An instruction read from a pair with an operand error is fault entry, as an effect and as a Step. -/
theorem exec_and_step_of_operand_error {opc opd : Nat} {i : Instr} (hdec : decode opc opd = .instr i)
    (hcause : pairCause opc opd = .invalidOperand) (s : State) :
    exec i s = .next { s with status := .faulted, cause := .invalidOperand } ∧
    (s.status = .running → s.prog.cell s.pc = some opc → s.prog.cell (s.pc + 1) = some opd →
      step s = .next { s with pc := s.pc + 2, status := .faulted, cause := .invalidOperand }) := by
  have hi : instrCause i = .invalidOperand := (pairCause_eq_instrCause hdec).symm.trans hcause
  refine ⟨?_, fun hrun hopc hopd => step_of_raising_pair hrun hopc hopd hcause nofun⟩
  rw [exec_of_instrCause_ne_none (by simp [hi]), hi]

/-! ### The effects of BXL, BST and BXC -/

theorem exec_bxl_num (k : Fin 8) (s : State) :
    exec (.bxl (.num k)) s = .next (writeReg .B (bitXor s.regB k.val) s) := rfl

theorem exec_bxl_of_le_seven {opd : Nat} (h : opd ≤ 7) (s : State) :
    exec (.bxl (decodeLiteral opd)) s = .next (writeReg .B (bitXor s.regB opd) s) := by
  rw [decodeLiteral_of_le_seven h, exec_bxl_num]

theorem exec_bst_of_value {op : Combo} {s : State} {v : Nat} (h : resolveCombo op s = .value v) :
    exec (.bst op) s = .next (writeReg .B (low3 v) s) := by
  rw [exec, execBst, h, withOperand]

theorem exec_bxc (cell : Nat) (s : State) : exec (.bxc cell) s = .next (writeReg .B (bitXor s.regB s.regC) s) := rfl

/-- Writing a register's old value back undoes a write to it. -/
theorem writeReg_readReg_writeReg (r : Reg) (v : Nat) (s : State) : writeReg r (readReg r s) (writeReg r v s) = s := by
  cases r <;> rfl

/-- BXL undoes itself, since the exclusive or does (R90). -/
theorem exec_bxl_twice {opd : Nat} (h : opd ≤ 7) {s t : State} (ht : exec (.bxl (decodeLiteral opd)) s = .next t) :
    exec (.bxl (decodeLiteral opd)) t = .next s := by
  rw [exec_bxl_of_le_seven h] at ht ⊢
  obtain rfl := Host.Outcome.next.inj ht
  rw [writeReg_B_regB, bitXor_bitXor_cancel]
  exact congrArg _ (writeReg_readReg_writeReg .B _ s)

/-! ### The obligations -/

/-- Settles O11: the bits of what each of the three effects writes. -/
theorem registerBBitByBit : Obligations.RegisterBBitByBit := by
  refine fun s => ⟨fun cell => ⟨_, exec_bxc cell s, ?xorBits, fun n => Nat.xor_lt_two_pow⟩,
    fun k => ⟨_, exec_bxl_num k s, ?lowBits, fun i hi => ?highBits⟩,
    fun r => ⟨_, exec_bst_of_value rfl, rfl, ?lowThree⟩⟩
  case xorBits => exact testBit_bitXor s.regB s.regC
  case lowBits => exact fun i _ => testBit_bitXor s.regB k i
  case highBits => exact testBit_bitXor_of_lt_eight k.isLt hi s.regB
  case lowThree => exact testBit_low3 (readReg r s)

/-- Settles O15: the Step is the effect on the advanced state. -/
theorem bxlXorsLiteralIntoB : Obligations.BxlXorsLiteralIntoB := by
  intro s opd
  have hdec : decode 1 opd = .instr (.bxl (decodeLiteral opd)) := rfl
  refine ⟨hdec, by simp [encode], fun hle => ⟨exec_bxl_of_le_seven hle s, fun hrun hopc hopd => ?step⟩,
    fun hgt => exec_and_step_of_operand_error hdec (if_pos hgt) s, fun _ hle => exec_bxl_twice hle⟩
  case step => exact (step_of_decode hrun hopc hopd hdec).trans (exec_bxl_of_le_seven hle (advancePc s))

/-- Settles O16: the operand's value is the same before and after the advance of pc. -/
theorem bstTakesLowThreeBits : Obligations.BstTakesLowThreeBits := by
  intro s opd
  have hdec : decode 2 opd = .instr (.bst (decodeCombo opd)) := rfl
  refine ⟨hdec, by simp [encode], fun hle => ?value, fun hge => exec_and_step_of_operand_error hdec (if_pos hge) s,
    fun hle => ?number⟩
  case value =>
    obtain ⟨val, hrow, hval⟩ := resolveCombo_decodeCombo_row hle s
    refine ⟨val, hrow, exec_bst_of_value hval, fun hrun hopc hopd => ?_⟩
    exact (step_of_decode hrun hopc hopd hdec).trans (exec_bst_of_value ((resolveCombo_advancePc _ s).trans hval))
  case number =>
    rw [exec_bst_of_value (resolveCombo_decodeCombo_of_le_three hle s), low3_eq_self (by omega)]
    rfl

/-- Settles O17: the operand cell has no part in the effect; where it does not exist, the halt check comes first. -/
theorem bxcXorsCIntoB : Obligations.BxcXorsCIntoB := by
  intro s opd
  have hdec : decode 4 opd = .instr (.bxc opd) := rfl
  refine ⟨hdec, rfl, exec_bxc opd s, fun hrun hopc hopd => ?step, fun hrun _ hnone => ?halts⟩
  case step => exact (step_of_decode hrun hopc hopd hdec).trans (exec_bxc opd (advancePc s))
  case halts => exact step_of_atEnd hrun (List.getElem?_eq_none_iff.1 hnone)

end Sys2Proof.Machine
end

section
/-! SUPPORT. The family of spec/43_branch.md: JNZ, whose taken branch overwrites the advanced pc (R95). -/
namespace Sys2Proof.Machine

theorem exec_jnz_taken {opd : Nat} {s : State} (h : opd ≤ 7) (hA : s.regA ≠ 0) :
    exec (.jnz (decodeLiteral opd)) s = .next (setPc opd s) := by
  rw [decodeLiteral_of_le_seven h, exec_jnz_of_ne_zero _ hA]

theorem exec_jnz_not_taken {opd : Nat} {s : State} (h : opd ≤ 7) (hA : s.regA = 0) :
    exec (.jnz (decodeLiteral opd)) s = .next s := by
  rw [decodeLiteral_of_le_seven h, exec_jnz_of_zero _ hA]

/-- Settles O18: whether or not the branch is taken, the Step is the effect on the advanced state; an operand above 7
raises before A is looked at. -/
theorem jnzBranchesOnNonzeroA : Obligations.JnzBranchesOnNonzeroA := by
  intro s opd
  have hdec : decode 3 opd = .instr (.jnz (decodeLiteral opd)) := rfl
  refine ⟨hdec, by simp [encode], fun hle hA => ⟨exec_jnz_taken hle hA, fun hrun hopc hopd => ?taken⟩,
    fun hle hA => ⟨exec_jnz_not_taken hle hA, fun hrun hopc hopd => ?notTaken⟩,
    fun hgt => exec_and_step_of_operand_error hdec (if_pos hgt) s⟩
  case taken => exact step_of_taken hrun hopc hopd hle hA
  case notTaken => exact (step_of_decode hrun hopc hopd hdec).trans (exec_jnz_not_taken (s := advancePc s) hle hA)

end Sys2Proof.Machine
end

section
/-! SUPPORT. The family of spec/44_output.md: OUT as one emission of the low three bits (R100), and no emission from
anything else (R101). -/
namespace Sys2Proof.Machine

/-! ### OUT with a value (R35, R100) -/

/-- The 3-bit port carries the low three bits whole (R35). -/
theorem portValue_toNat (v : Nat) : (portValue v).toNat = v % 8 := Nat.mod_mod v 8

theorem step_out_of_value {s : State} {opd v : Nat} (hrun : s.status = .running) (hopc : s.prog[s.pc]? = some 5)
    (hopd : s.prog[s.pc + 1]? = some opd) (hval : resolveCombo (decodeCombo opd) s = .value v) :
    step s = .next (emit (portValue v) (advancePc s)) :=
  (step_of_decode (opd := opd) hrun hopc hopd rfl).trans (exec_out_of_value ((resolveCombo_advancePc _ s).trans hval))

/-- Settles O19: the value is the operand's row of R54's table, the same before and after the advance of pc. -/
theorem outEmitsLowThreeBits : Obligations.OutEmitsLowThreeBits := by
  intro s opd
  have hdec : decode 5 opd = .instr (.out (decodeCombo opd)) := rfl
  refine ⟨hdec, by simp [encode], fun hle => ?value, fun hge => exec_and_step_of_operand_error hdec (if_pos hge) s⟩
  obtain ⟨val, hrow, hval⟩ := resolveCombo_decodeCombo_row hle s
  exact ⟨val, portValue val, hrow, portValue_toNat val, exec_out_of_value hval,
    fun hrun hopc hopd => step_out_of_value hrun hopc hopd hval⟩

/-! ### No emission from anything else (R37, R101) -/

/-- Only the cells 0 to 6 have a value (R54, R55, R59). -/
theorem le_six_of_resolveCombo_value {opd v : Nat} {s : State} (h : resolveCombo (decodeCombo opd) s = .value v) :
    opd ≤ 6 := by
  by_contra hopd
  rw [decodeCombo_reserved (by omega)] at h
  cases h

/-- An effect leaves the sink, unless the instruction is an OUT whose operand has a value. -/
theorem exec_sink_eq_or_out {i : Instr} {s t : State} (h : exec i s = .next t) :
    t.sink = s.sink ∨ ∃ op v, i = .out op ∧ resolveCombo op s = .value v := by
  rcases exec_cases h with ⟨op, v, r, -, -, rfl⟩ | ⟨n, -, rfl⟩ | ⟨op, v, -, -, rfl⟩ | ⟨n, -, -, rfl⟩ |
    ⟨n, -, -, rfl⟩ | ⟨cell, -, rfl⟩ | ⟨op, v, hout, hval, -⟩ | ⟨cell, rfl, -⟩
  · simp
  · simp
  · simp
  · simp
  · simp
  · simp
  · exact .inr ⟨op, v, hout, hval⟩
  · simp

/-- The decoder reads OUT from opcode 5 only. -/
theorem decode_eq_out {opc opd : Nat} {op : Combo} (h : decode opc opd = .instr (.out op)) :
    opc = 5 ∧ op = decodeCombo opd := by
  simpa using decode_cases h

/-- A Step that changes the sink executed an OUT with an operand cell of 0 to 6. -/
theorem step_sink_eq_or_out {s t : State} (h : step s = .next t) :
    t.sink = s.sink ∨ (s.status = .running ∧ s.prog[s.pc]? = some 5 ∧
      ∃ opd, opd ≤ 6 ∧ s.prog[s.pc + 1]? = some opd) := by
  rcases step_cases h with
    ⟨-, rfl⟩ | ⟨-, -, rfl⟩ | ⟨hrun, opc, opd, hopc, hopd, ⟨-, rfl⟩ | ⟨i, hdec, hexec⟩⟩
  · exact .inl rfl
  · exact .inl (halt_sink s)
  · exact .inl (by simp)
  · rcases exec_sink_eq_or_out hexec with hsink | ⟨op, v, rfl, hval⟩
    · exact .inl hsink
    · obtain ⟨rfl, rfl⟩ := decode_eq_out hdec
      exact .inr ⟨hrun, hopc, opd, le_six_of_resolveCombo_value hval, hopd⟩

theorem perform_keeps_sink {op : DriverOp} {s t : State} (h : perform op s = .next t) (hstep : op ≠ .step)
    (hswap : ∀ contents, op ≠ .swapSink contents) : t.sink = s.sink := by
  rcases perform_cases h with ⟨rfl, -⟩ | ⟨-, rfl⟩ | ⟨r, v, n, -, -, -, rfl⟩ | ⟨-, rfl⟩ | ⟨contents, rfl, -⟩
  · exact absurd rfl hstep
  · simp
  · simp
  · rfl
  · exact absurd rfl (hswap contents)

/-- Settles O30: a Step on an OUT with a value is its one emission, and any other Step that changed the sink would have
executed such an OUT. -/
theorem oneEmissionPerExecutedOut : Obligations.OneEmissionPerExecutedOut := by
  refine ⟨fun s t h => ⟨?emits, fun hno => (step_sink_eq_or_out h).resolve_right hno⟩,
    fun op s t => perform_keeps_sink⟩
  rintro ⟨hrun, hopc, opd, hle, hopd⟩
  obtain ⟨v, hval⟩ := resolveCombo_decodeCombo_value hle s
  cases (step_out_of_value hrun hopc hopd hval).symm.trans h
  exact ⟨portValue v, rfl⟩

end Sys2Proof.Machine
end

section
/-! SUPPORT. The family of spec/60_exceptions.md: fault entry as the one change of CAUSE a Step makes (R107, R109, R110),
and what operations without a Reset leave of a stopped instance (R113, R114). -/
namespace Sys2Proof.Machine

/-! ### Fault entry by a Step (R107, R109, R110) -/

theorem pairCause_ne_invalidOpcode {opc : Nat} (h : opc < 8) (opd : Nat) : pairCause opc opd ≠ .invalidOpcode := by
  obtain ⟨i, hdec⟩ := decode_of_lt_eight h opd
  rw [pairCause_eq_instrCause hdec]
  cases i with
  | adv op | bst op | out op | bdv op | cdv op => cases op <;> exact nofun
  | bxl op | jnz op => cases op <;> exact nofun
  | bxc cell => exact nofun

/-- A Step leaves CAUSE and does not enter Faulted, or it is fault entry with the error of the fetched pair on the
advanced pc. -/
theorem step_keeps_cause_or_raises {s t : State} (h : step s = .next t) :
    (t.cause = s.cause ∧ (t.status = .faulted → s.status = .faulted)) ∨
    ∃ opc opd, s.prog[s.pc]? = some opc ∧ s.prog[s.pc + 1]? = some opd ∧ pairCause opc opd ≠ .none ∧
      t = { s with pc := s.pc + 2, status := .faulted, cause := pairCause opc opd } := by
  rcases step_cases h with ⟨-, rfl⟩ | ⟨-, -, rfl⟩ | ⟨hrun, opc, opd, hopc, hopd, -⟩
  · exact .inl ⟨rfl, id⟩
  · exact .inl ⟨rfl, nofun⟩
  · by_cases hcause : pairCause opc opd = .none
    · obtain ⟨u, hu, hurun, hkept⟩ := step_of_legal_pair hrun hopc hopd hcause
      cases hu.symm.trans h
      exact .inl ⟨hkept, by simp [hurun]⟩
    · cases (step_of_raising_pair hrun hopc hopd rfl hcause).symm.trans h
      exact .inr ⟨opc, opd, hopc, hopd, hcause, rfl⟩

/-- With CELL_W = 3 every cell of a store in form is one of the eight opcodes (R31, R57). -/
theorem cell_lt_eight_of_wf {p : Params} {m : Memory} {k cell : Nat} (hp : p.cellW = 3) (hm : m.wf p = true)
    (h : m[k]? = some cell) : cell < 8 := by
  obtain ⟨hcells, -⟩ := (memory_wf_iff p m).1 hm
  simpa [hp] using hcells cell (List.mem_of_getElem? h)

/-- Settles O23: fault entry on the advanced pc leaves the Program; with CELL_W = 3 the fetched opcode is one of the
eight, whose error is never InvalidOpcode. -/
theorem opcodeAboveSevenRaises : Obligations.OpcodeAboveSevenRaises := by
  refine ⟨fun s opc opd hrun hopc hopd hbig => ⟨_, step_of_eight_le hrun hopc hopd hbig, rfl, hopc⟩,
    fun s t hwidth hwf h hs => ?_⟩
  rcases step_keeps_cause_or_raises h with ⟨hkept, -⟩ | ⟨opc, opd, hopc, -, -, rfl⟩
  · rwa [hkept]
  · exact pairCause_ne_invalidOpcode (cell_lt_eight_of_wf hwidth hwf hopc) opd

/-- Settles O24: a Step that enters Faulted is fault entry, and the pair it fetched stands below the advanced pc. -/
theorem faultsArePrecise : Obligations.FaultsArePrecise := by
  intro s t hrun h hfaulted
  rcases step_keeps_cause_or_raises h with ⟨-, hentered⟩ | ⟨opc, opd, hopc, hopd, hcause, rfl⟩
  · cases (hentered hfaulted).symm.trans hrun
  · exact ⟨rfl, hcause, Nat.le_add_left 2 s.pc, opc, opd, hopc, hopd, hopc, hopd⟩

/-! ### A stopped instance without a Reset (R71, R113, R114) -/

/-- Of the operations only a Step and SetReg of a register can change it. -/
theorem perform_keeps_readReg {op : DriverOp} {s t : State} {r : Reg} (h : perform op s = .next t)
    (hstep : op ≠ .step) (hset : ∀ v, op ≠ .setReg r v) : readReg r t = readReg r s := by
  rcases perform_cases h with ⟨rfl, -⟩ | ⟨-, rfl⟩ | ⟨r', v, n, rfl, -, -, rfl⟩ | ⟨-, rfl⟩ | ⟨contents, -, rfl⟩
  · exact absurd rfl hstep
  · simp
  · have hne : r ≠ r' := by
      rintro rfl
      exact hset v rfl
    exact readReg_writeReg_of_ne hne n s
  · rfl
  · cases r <;> rfl

/-- A stopped instance makes no Step that changes it, so what each other operation of a sequence without Reset leaves
of the state, the sequence leaves. -/
theorem performAll_keeps_of_not_running {α : Type} (f : State → α) {ops : List DriverOp} {s t : State}
    (hstopped : s.status ≠ .running) (hreset : .reset ∉ ops)
    (hf : ∀ op ∈ ops, op ≠ .step → ∀ u u', perform op u = .next u' → f u' = f u)
    (h : performAll ops s = .next t) : f t = f s := by
  refine (performAll_keeps (P := fun u => u.status ≠ .running ∧ f u = f s) (fun op hop u u' hu hp => ?_)
    ⟨hstopped, rfl⟩ h).2
  obtain ⟨hustopped, hfu⟩ := hu
  by_cases hstep : op = .step
  · subst hstep
    cases (step_of_not_running hustopped).symm.trans hp
    exact ⟨hustopped, hfu⟩
  · obtain ⟨hstatus, -, -⟩ := perform_keeps_control hp hstep (ne_of_mem_of_not_mem hop hreset)
    exact ⟨hstatus ▸ hustopped, (hf op hop hstep u u' hp).trans hfu⟩

/-- Settles O51: a Faulted instance is stopped, and each part of its state is changed by the operations named only. -/
theorem faultedUntilReset : Obligations.FaultedUntilReset := by
  intro ops s t hfaulted hreset h
  have hstopped : s.status ≠ .running := by simp [hfaulted]
  have hcontrol := performAll_keeps_of_not_running (fun u => (u.status, u.pc, u.cause)) hstopped hreset
    (fun op hop hstep u u' hp => by
      simpa using perform_keeps_control hp hstep (ne_of_mem_of_not_mem hop hreset)) h
  obtain ⟨hstatus, hpc, hcause⟩ : t.status = s.status ∧ t.pc = s.pc ∧ t.cause = s.cause := by simpa using hcontrol
  refine ⟨hstatus.trans hfaulted, hcause, hpc, performAll_keeps_prog h, fun r hset => ?registers, fun hswap => ?sink⟩
  case registers =>
    exact performAll_keeps_of_not_running (readReg r) hstopped hreset
      (fun op hop hstep _ _ hp => perform_keeps_readReg hp hstep fun v => ne_of_mem_of_not_mem hop (hset v)) h
  case sink =>
    exact performAll_keeps_of_not_running State.sink hstopped hreset
      (fun op hop hstep _ _ hp => perform_keeps_sink hp hstep fun c => ne_of_mem_of_not_mem hop (hswap c)) h

end Sys2Proof.Machine
end

section
/-! SUPPORT. The family of spec/70_reset_and_hazards.md: what Construct accepts and refuses (R125 to R127), Reset (R128),
and the reachable instances (R133, R138). -/
namespace Sys2Proof.Machine

/-! ### Widths and lengths of values from outside (R5 to R7, R126) -/

theorem paramsInRange_iff (p : Params) :
    paramsInRange p = true ↔ (∀ w, p.regW = .finite w → 3 ≤ w) ∧ 3 ≤ p.cellW := by
  cases hw : p.regW with
  | finite n => simp [paramsInRange, hw]
  | inf => simp [paramsInRange, hw]

theorem fitsLength_iff (bound : Bound) (len : Nat) :
    fitsLength bound len = true ↔ ∀ m, bound = .finite m → len ≤ m := by
  cases bound with
  | finite n => simp [fitsLength]
  | inf => simp [fitsLength]

theorem two_pow_le_ofNat_iff (w k : Nat) : (2 : Int) ^ w ≤ Int.ofNat k ↔ 2 ^ w ≤ k := by
  rw [Int.ofNat_eq_natCast]
  exact_mod_cast Iff.rfl

theorem checkReg_bad_iff (p : Params) (v : Int) :
    (∃ e, checkReg p v = .bad e) ↔ v < 0 ∨ ∃ w, p.regW = .finite w ∧ (2 : Int) ^ w ≤ v := by
  refine ⟨fun ⟨e, he⟩ => ?_, checkReg_of_not_fits⟩
  cases v with
  | negSucc k => exact .inl (Int.negSucc_lt_zero k)
  | ofNat k =>
    by_contra hfits
    have hok : checkReg p (Int.ofNat k) = .ok k := checkReg_of_fits fun w hw =>
      Nat.lt_of_not_le fun hwide => hfits (.inr ⟨w, hw, (two_pow_le_ofNat_iff w k).2 hwide⟩)
    cases hok.symm.trans he

theorem checkCells_of_fits {p : Params} {prog : List Nat} (h : ∀ x ∈ prog, x < 2 ^ p.cellW) :
    checkCells p (prog.map Int.ofNat) = .ok prog := by
  induction prog with
  | nil => rfl
  | cons x rest ih =>
    obtain ⟨hx, hrest⟩ := List.forall_mem_cons.1 h
    simp only [List.map_cons, checkCells, cellFits, hx, decide_true, if_true, ih hrest]

theorem checkCells_bad_iff (p : Params) (cells : List Int) :
    (∃ e, checkCells p cells = .bad e) ↔ ∃ x ∈ cells, x < 0 ∨ (2 : Int) ^ p.cellW ≤ x := by
  induction cells with
  | nil => simp [checkCells]
  | cons x rest ih =>
    rw [List.exists_mem_cons_iff, ← ih]
    cases x with
    | negSucc k => simp [checkCells, Int.negSucc_lt_zero]
    | ofNat k =>
      have hnonneg : ¬ Int.ofNat k < 0 := Int.not_lt.2 (Int.natCast_nonneg k)
      have hbad : (Int.ofNat k < 0 ∨ (2 : Int) ^ p.cellW ≤ Int.ofNat k) ↔ ¬ k < 2 ^ p.cellW := by
        rw [two_pow_le_ofNat_iff, or_iff_right hnonneg, Nat.not_lt]
      rw [hbad]
      by_cases hk : k < 2 ^ p.cellW
      · cases hrest : checkCells p rest with
        | ok m => simp [checkCells, cellFits, hk, hrest]
        | bad e => simp [checkCells, cellFits, hk, hrest]
      · simp [checkCells, cellFits, hk]

theorem checkProgram_of_fits {p : Params} {prog : List Nat} (hcells : ∀ x ∈ prog, x < 2 ^ p.cellW)
    (hlen : ∀ m, p.lenMax = .finite m → prog.length ≤ m) : checkProgram p (prog.map Int.ofNat) = .ok prog := by
  rw [checkProgram, List.length_map, if_pos ((fitsLength_iff _ _).2 hlen), checkCells_of_fits hcells]

theorem checkProgram_bad_iff (p : Params) (cells : List Int) :
    (∃ e, checkProgram p cells = .bad e) ↔
      (∃ x ∈ cells, x < 0 ∨ (2 : Int) ^ p.cellW ≤ x) ∨ ∃ m, p.lenMax = .finite m ∧ m < cells.length := by
  have hlong : fitsLength p.lenMax cells.length = false ↔ ∃ m, p.lenMax = .finite m ∧ m < cells.length := by
    rw [← Bool.not_eq_true, fitsLength_iff]
    push Not
    rfl
  rw [← hlong, ← checkCells_bad_iff]
  cases hlen : fitsLength p.lenMax cells.length with
  | false => simp [checkProgram, hlen]
  | true => simp [checkProgram, hlen]

/-! ### Construct (R125 to R127) -/

section
variable {p : Params} {cells : List Int} {a b c : Int} {sink : List OutVal} (hp : paramsInRange p = true)
include hp

theorem construct_of_checks {prog : Memory} {x y z : Nat} (hprog : checkProgram p cells = .ok prog)
    (ha : checkReg p a = .ok x) (hb : checkReg p b = .ok y) (hc : checkReg p c = .ok z) :
    construct p cells a b c sink = .next { params := p, prog := prog, regA := x, regB := y, regC := z, pc := 0,
                                           status := .running, cause := .none, sink := sink } := by
  simp only [construct, hp, if_true, hprog, ha, hb, hc]

/-- On parameters in range a construction is refused exactly when one of its four checks refuses. -/
theorem construct_refused_iff :
    (∃ r, construct p cells a b c sink = .refused r) ↔ (∃ e, checkProgram p cells = .bad e) ∨
      (∃ e, checkReg p a = .bad e) ∨ (∃ e, checkReg p b = .bad e) ∨ ∃ e, checkReg p c = .bad e := by
  cases hprog : checkProgram p cells with
  | bad e => simp [construct, hp, hprog]
  | ok prog =>
    cases ha : checkReg p a with
    | bad e => simp [construct, hp, hprog, ha]
    | ok x =>
      cases hb : checkReg p b with
      | bad e => simp [construct, hp, hprog, ha, hb]
      | ok y =>
        cases hc : checkReg p c with
        | bad e => simp [construct, hp, hprog, ha, hb, hc]
        | ok z => simp [construct_of_checks hp hprog ha hb hc]

end

/-- Settles O43: values that fit pass all four checks. -/
theorem constructLoadsInstance : Obligations.ConstructLoadsInstance := by
  intro p prog a b c sink hregs hcellW hcells hlen
  have hp : paramsInRange p = true := (paramsInRange_iff p).2 ⟨fun w hw => (hregs w hw).1, hcellW⟩
  have ha : checkReg p (Int.ofNat a) = .ok a := checkReg_of_fits fun w hw => let ⟨_, ha, _, _⟩ := hregs w hw; ha
  have hb : checkReg p (Int.ofNat b) = .ok b := checkReg_of_fits fun w hw => let ⟨_, _, hb, _⟩ := hregs w hw; hb
  have hc : checkReg p (Int.ofNat c) = .ok c := checkReg_of_fits fun w hw => let ⟨_, _, _, hc⟩ := hregs w hw; hc
  refine ⟨_, construct_of_checks hp (checkProgram_of_fits hcells hlen) ha hb hc, rfl, ?_⟩
  simp [malformed]

/-- Settles O44: a refusal is one of the four checks', each of which refuses exactly the values of R126. -/
theorem constructRefusesExactlyBadValues : Obligations.ConstructRefusesExactlyBadValues := by
  intro p cells a b c sink hregW hcellW
  rw [construct_refused_iff ((paramsInRange_iff p).2 ⟨hregW, hcellW⟩), checkProgram_bad_iff, checkReg_bad_iff,
    checkReg_bad_iff, checkReg_bad_iff]
  simp only [and_or_left, exists_or]
  exact iff_of_eq (by ac_rfl)

/-! ### Reset and reachable instances (R128, R133, R138) -/

/-- Settles O45: by the definition of Reset. -/
theorem resetEffect : Obligations.ResetEffect := fun _ => ⟨rfl, rfl⟩

/-- Settles O36: Construct establishes the invariant and each operation keeps it. -/
theorem reachableInstancesKeepInvariant : Obligations.ReachableInstancesKeepInvariant :=
  ⟨fun _ _ _ _ _ _ _ => construct_inv, fun _ _ _ => performAll_keeps fun _ _ _ _ => perform_keeps_inv⟩

/-- Settles O49: the Program is as long as the supplied sequence, so the constructed instance is at the end at pc 0. -/
theorem emptyProgramHaltsAtOnce : Obligations.EmptyProgramHaltsAtOnce := by
  intro p cells a b c sink s hlen h
  obtain ⟨-, prog, x, y, z, hprog, -, -, -, rfl⟩ := construct_cases h
  obtain ⟨rfl, -⟩ := checkProgram_ok hprog
  exact ⟨rfl, rfl, step_of_atEnd rfl (by simpa using hlen)⟩

end Sys2Proof.Machine
end
